-- ==== Sys2Proof/Word.lean ====
section
/-! DEFINITION. The byte of the buffers and memories and the 32-bit word of the register file
(00_scope.md R9, 10_state.md R30). -/

namespace Sys2Proof

/-- A byte is 8 bits (R9). -/
abbrev Byte := BitVec 8

/-- A register access moves one 32-bit word (R30, R73). -/
abbrev Word := BitVec 32

end Sys2Proof
end

