-- ==== Sys2Proof/Config.lean ====
section
/-! DEFINITION. What an implementation or platform fixes (the types of the parameters), and the
free values: constants without a body, of which nothing can be proved. The preset table itself is
in Machine/Presets.lean. -/

namespace Sys2Proof

/-- A parameter set P of the engine (00_scope.md R6). -/
structure Preset where
  posSubtract    : Nat
  maxMatchDiff   : Nat
  maxMatchLength : Nat
  searchReverse  : Bool
  zeroFill       : Bool
  deriving DecidableEq, Repr

/-- IMAGE_CLAMP of 42_chunk_semantics.md R214 (92_eei_decisions.md D32): what the image decoder does
with a distance beyond the bytes written so far. -/
inductive ClampMode where
  | compat
  | strict
  deriving DecidableEq, Repr

/-- IMAGE_PAD_BASIS of 45_host_framing.md R244 (D28): the length that the 0xFF padding aligns. -/
inductive PadBasis where
  | stream
  | container
  deriving DecidableEq, Repr

/-- The parameters of the block and its platform that no step changes (10_state.md R48,
00_scope.md R8, 20_memory.md R77, 42_chunk_semantics.md R214). State carries one such record, so
that a statement about every state is a statement about every value of them (log 1). -/
structure Params where
  imemSize   : Nat
  omemSize   : Nat
  baseReg    : Nat
  baseImem   : Nat
  baseOmem   : Nat
  imageClamp : ClampMode
  deriving DecidableEq, Repr

/-- The parameters of the host's codecs alone (45_host_framing.md R241, R244): the functions of
Machine/Framing.lean take them as an argument, and nothing fixes a value of them. -/
structure HostParams where
  blockTag    : Byte
  padBasis    : PadBasis
  fallbackPad : Byte
  imageClamp  : ClampMode
  deriving DecidableEq, Repr

/-- The byte that address `a` of IMEM holds after power-up number `seed`, until it is written
(70_reset_and_hazards.md R292: any value). FREE VALUE (log 2). -/
opaque Config.powerUpImem : (seed a : Nat) → Byte

/-- The byte that address `a` of OMEM holds after power-up number `seed`, until it is written
(R292: any value). FREE VALUE (log 2). -/
opaque Config.powerUpOmem : (seed a : Nat) → Byte

/-- The `n`-th value that a host read during BUSY returns where R296 says any value (20_memory.md
R79 item 4). FREE VALUE (log 3). -/
opaque Config.freeWord : (n : Nat) → Word

end Sys2Proof
end

