-- ==== Sys2Proof/Syntax.lean ====
section
/-! DEFINITION. The instructions: one constructor per row of the opcode table (30_encoding.md R113). -/

namespace Sys2Proof

/-- Which preset produced a chunk stream. Nothing in the stream tells (30_encoding.md R104); its
consumer knows. -/
inductive StreamKind where
  | block
  | image
  deriving DecidableEq, Repr

/-- An instruction: a chunk-stream item, with the operands of its assembler line (30_encoding.md
R111: the actual length and distance), or a command, with its operand fields (R108). -/
inductive Instr where
  /-- FLAG f: a block's flag byte (R101). -/
  | flag (f : Byte)
  /-- LIT b: a literal byte (R102). FILL is LIT 0x00 (R107). -/
  | lit (b : Byte)
  /-- REF.B len, dist: a back-reference of a BLOCK stream (R103, R104). -/
  | refB (len dist : Nat)
  /-- REF.I len, dist: a back-reference of an IMAGE stream (R103, R104). -/
  | refI (len dist : Nat)
  /-- FIND: the CTRL write that starts one longest-match search (R108). -/
  | find (mode : BitVec 2) (ie : Bool)
  /-- ENCODE: the CTRL write that starts the greedy encoder (R108). -/
  | encode (mode : BitVec 2) (ie : Bool)
  deriving DecidableEq, Repr

/-- FILL, the pseudo-chunk (R107, R111). -/
abbrev Instr.fill : Instr := .lit 0

end Sys2Proof
end

