-- ==== Sys2Proof/Machine/Presets.lean ====
section
/-! DEFINITION. The preset table of 00_scope.md R6 and its selection by CTRL.MODE (10_state.md R32). -/

namespace Sys2Proof

/-- MODE 0, BLOCK (R6). -/
def Preset.block : Preset where
  posSubtract    := 1
  maxMatchDiff   := 0x1000
  maxMatchLength := 18
  searchReverse  := false
  zeroFill       := true

/-- MODE 1, IMAGE (R6). -/
def Preset.image : Preset where
  posSubtract    := 3
  maxMatchDiff   := 0x1002
  maxMatchLength := 18
  searchReverse  := true
  zeroFill       := false

/-- The preset that CTRL.MODE selects: MODE 2 and 3 are reserved (R6, R32). -/
def presetOf (mode : BitVec 2) : Option Preset :=
  if mode = 0 then some Preset.block
  else if mode = 1 then some Preset.image
  else none

/-- The preset behind a stream of this kind (30_encoding.md R104). -/
def StreamKind.preset : StreamKind → Preset
  | .block => Preset.block
  | .image => Preset.image

/-- The parameter sets that R7 lets a model admit, its difference taken on integers (R10). -/
abbrev Preset.Admissible (P : Preset) : Prop :=
  1 ≤ P.posSubtract ∧ P.posSubtract ≤ 3 ∧ 3 ≤ P.maxMatchLength ∧ P.maxMatchLength ≤ 18 ∧
    (P.maxMatchDiff : Int) - P.posSubtract ≤ 0xFFF

end Sys2Proof
end

