-- ==== Sys2Proof/WellFormed.lean ====
section
/-! DEFINITION. Which operands an encoding has (30_encoding.md R111): a length of 3 to 18 and a
displacement `dist - posSubtract` of 0 to 4095. Every other field takes every value. -/

namespace Sys2Proof

/-- The operand check of a back-reference: an operand out of range is an assembly error (R111). -/
def refWellFormed (P : Preset) (len dist : Nat) : Bool :=
  3 ≤ len && len ≤ 18 && P.posSubtract ≤ dist && dist ≤ P.posSubtract + 0xFFF

/-- An instruction that has an encoding (R101 to R104, R108, R111). -/
def Instr.wellFormed : Instr → Bool
  | .flag _ => true
  | .lit _ => true
  | .refB len dist => refWellFormed Preset.block len dist
  | .refI len dist => refWellFormed Preset.image len dist
  | .find _ _ => true
  | .encode _ _ => true

end Sys2Proof
end

