-- ==== Sys2Proof/Decode.lean ====
section
/-! DEFINITION. Encodings (30_encoding.md). The decoder is total and rejects by name; the encoder
after it is written from the same field layouts. What a byte of a stream is depends on where it
stands (R105, R113), so the decoder takes its place in the stream as an argument. -/

namespace Sys2Proof

/-- Where the bits to decode stand: a word written to CTRL, the first byte of a block, or a chunk
slot with its flag bit and the kind of the stream (R105, R113). -/
inductive DecodePlace where
  | ctrlWrite
  | blockStart
  | slot (isRef : Bool) (kind : StreamKind)
  deriving DecidableEq, Repr

/-- The bits of an instruction as the hardware holds them: the word of a CTRL write, which has no
byte order (20_memory.md R73), or consecutive bytes of a stream, lowest address first. -/
inductive Bits where
  | ctrlWord (w : Word)
  | stream (bytes : List Byte)
  deriving DecidableEq, Repr

/-- Why the decoder rejects. -/
inductive Reject where
  /-- The stream ends inside the item (42_chunk_semantics.md R211, R212). -/
  | truncated
  /-- A CTRL write with START = 0 is not a command (R109). -/
  | notACommand
  /-- OP = 0 or 3 with START = 1 (R109). -/
  | reservedOp
  /-- A word where a stream byte is wanted, or the reverse. -/
  | wrongPlace
  deriving DecidableEq, Repr

/-! ## Fields of the command word (R108) -/

/-- Bit 0, START. -/
def ctrlStart (w : Word) : Bool := w.getLsbD 0

/-- Bits 2:1, OP. -/
def ctrlOp (w : Word) : BitVec 2 := w.extractLsb' 1 2

/-- Bits 5:4, MODE. -/
def ctrlMode (w : Word) : BitVec 2 := w.extractLsb' 4 2

/-- Bit 8, IE. -/
def ctrlIe (w : Word) : Bool := w.getLsbD 8

/-- OP = 1 (R108). -/
def opFind : BitVec 2 := 1

/-- OP = 2 (R108). -/
def opEncode : BitVec 2 := 2

/-- The word `0000 0000 0000 0000 0000 000E 00MM 0OOS` (R108). -/
def ctrlWordOf (start : Bool) (op mode : BitVec 2) (ie : Bool) : Word :=
  0#23 ++ BitVec.ofBool ie ++ 0#2 ++ mode ++ 0#1 ++ op ++ BitVec.ofBool start

/-! ## The back-reference field (R103) -/

/-- The 16-bit field `LLLL DDDD DDDD DDDD`. -/
def refField (len disp : Nat) : BitVec 16 :=
  BitVec.ofNat 4 (len - 3) ++ BitVec.ofNat 12 disp

/-- LEN, bits 15:12, plus 3. -/
def refLength (field : BitVec 16) : Nat := (field.extractLsb' 12 4).toNat + 3

/-- DISP, bits 11:0. -/
def refDisp (field : BitVec 16) : Nat := (field.extractLsb' 0 12).toNat

/-- The field's two bytes, big-endian: the first holds bits 15:8 (R103, 20_memory.md R72). -/
def fieldBytes (field : BitVec 16) : List Byte :=
  [field.extractLsb' 8 8, field.extractLsb' 0 8]

/-- The field of two stream bytes, the first in the higher bits (R103). -/
def fieldOfBytes (b0 b1 : Byte) : BitVec 16 := b0 ++ b1

/-- The two bytes that a back-reference of this length and stored displacement has. -/
def refBytes (len disp : Nat) : List Byte := fieldBytes (refField len disp)

/-- The back-reference that a field denotes in a stream of this kind (R104). -/
def refOfField (kind : StreamKind) (field : BitVec 16) : Instr :=
  match kind with
  | .block => .refB (refLength field) (refDisp field + Preset.block.posSubtract)
  | .image => .refI (refLength field) (refDisp field + Preset.image.posSubtract)

/-! ## The decoder -/

/-- The command of a word written to CTRL (R108, R109). Reserved bits are ignored. -/
def decodeCommand (w : Word) : Except Reject Instr :=
  if ctrlStart w = false then .error .notACommand
  else if ctrlOp w = opFind then .ok (.find (ctrlMode w) (ctrlIe w))
  else if ctrlOp w = opEncode then .ok (.encode (ctrlMode w) (ctrlIe w))
  else .error .reservedOp

/-- The item at the head of a chunk slot: the flag bit alone tells its length (R105). -/
def decodeSlot (isRef : Bool) (kind : StreamKind) (bytes : List Byte) :
    Except Reject (Instr × List Byte) :=
  match isRef, bytes with
  | false, b :: rest => .ok (.lit b, rest)
  | true, b0 :: b1 :: rest => .ok (refOfField kind (fieldOfBytes b0 b1), rest)
  | false, [] => .error .truncated
  | true, [] => .error .truncated
  | true, [_] => .error .truncated

/-- The first byte of a block is its flag byte, whatever it is (R101, R110). -/
def decodeFlag (bytes : List Byte) : Except Reject (Instr × List Byte) :=
  match bytes with
  | f :: rest => .ok (.flag f, rest)
  | [] => .error .truncated

/-- The decoder: the instruction at this place, and the stream bytes after it. -/
def decode (place : DecodePlace) (bits : Bits) : Except Reject (Instr × List Byte) :=
  match place, bits with
  | .ctrlWrite, .ctrlWord w => (decodeCommand w).map fun i => (i, [])
  | .blockStart, .stream bytes => decodeFlag bytes
  | .slot isRef kind, .stream bytes => decodeSlot isRef kind bytes
  | .ctrlWrite, .stream _ => .error .wrongPlace
  | .blockStart, .ctrlWord _ => .error .wrongPlace
  | .slot _ _, .ctrlWord _ => .error .wrongPlace

/-! ## The encoder -/

/-- The place where an instruction can stand (R113). -/
def Instr.place : Instr → DecodePlace
  | .flag _ => .blockStart
  | .lit _ => .slot false .block
  | .refB _ _ => .slot true .block
  | .refI _ _ => .slot true .image
  | .find _ _ => .ctrlWrite
  | .encode _ _ => .ctrlWrite

/-- The bits of a well-formed instruction (R101 to R104, R108, R111). -/
def encode : Instr → Bits
  | .flag f => .stream [f]
  | .lit b => .stream [b]
  | .refB len dist => .stream (refBytes len (dist - Preset.block.posSubtract))
  | .refI len dist => .stream (refBytes len (dist - Preset.image.posSubtract))
  | .find mode ie => .ctrlWord (ctrlWordOf true opFind mode ie)
  | .encode mode ie => .ctrlWord (ctrlWordOf true opEncode mode ie)

/-- The stream bytes of an item (none for a command). -/
def Instr.bytes (i : Instr) : List Byte :=
  match Sys2Proof.encode i with
  | .stream bs => bs
  | .ctrlWord _ => []

/-- Whether an item is a back-reference: its flag bit (R101). -/
def Instr.isRef : Instr → Bool
  | .flag _ => false
  | .lit _ => false
  | .refB _ _ => true
  | .refI _ _ => true
  | .find _ _ => false
  | .encode _ _ => false

/-- Bit 7 - i describes slot i (R101). -/
def flagBit (slot : Nat) : Byte := 1#8 <<< (7 - slot)

/-- The flag byte of a block's items, from slot `slot` on: bits of absent slots are 0 (R101). -/
def flagByteFrom (slot : Nat) : List Instr → Byte
  | [] => 0
  | i :: rest => (if i.isRef then flagBit slot else 0) ||| flagByteFrom (slot + 1) rest

/-- `FLAG auto` (R111): the flag byte that the assembler computes from a block's items. -/
def flagByteOf (chunks : List Instr) : Byte := flagByteFrom 0 chunks

/-- The bytes of a block: flag byte, then its chunks (R100). -/
def assembleBlock (chunks : List Instr) : List Byte :=
  flagByteOf chunks :: chunks.flatMap Instr.bytes

/-! ## The host's view of the opcode table -/

/-- The place that a word of the opcode table is read at when only its width is known. A byte alone
is read where a stream begins, as a FLAG (R100). A 16-bit field alone is read as a back-reference
of the preset after reset, BLOCK. A 32-bit word is a CTRL write. The rows LIT and REF.I have the
same words as FLAG and REF.B and another place, so no width leads to them (log 11). -/
def tablePlace (nbits : Nat) : Option DecodePlace :=
  if nbits = 8 then some .blockStart
  else if nbits = 16 then some (.slot true .block)
  else if nbits = 32 then some .ctrlWrite
  else none

/-- The bits of a table word, as the hardware holds them: a 16-bit field is one word of the table,
its bits 15:8 the first byte (R103, log 13). -/
def tableBits (nbits w : Nat) : Bits :=
  if nbits = 8 then .stream [BitVec.ofNat 8 w]
  else if nbits = 16 then .stream (fieldBytes (BitVec.ofNat 16 w))
  else .ctrlWord (BitVec.ofNat 32 w)

/-- The instruction that the decoder reads from a word of the opcode table. -/
def decodeTableWord (nbits w : Nat) : Option Instr :=
  match tablePlace nbits with
  | none => none
  | some place =>
    match decode place (tableBits nbits w) with
    | .ok (i, _) => some i
    | .error _ => none

end Sys2Proof
end

