-- ==== Sys2Proof/Machine/State.lean ====
section
/-! DEFINITION. The machine's state (10_state.md), the reasons a step can stop, and the state after
power-up and reset (70_reset_and_hazards.md R290 to R292). Everything is plain data. -/

namespace Sys2Proof.Machine

/-! ## Registers -/

/-- The fields of CTRL (10_state.md R31). START is not stored: it reads 0. -/
structure Ctrl where
  op   : BitVec 2
  mode : BitVec 2
  ie   : Bool
  deriving DecidableEq, Repr

/-- The fields of STATUS (10_state.md R33). -/
structure Status where
  busy    : Bool
  done    : Bool
  err     : Bool
  errcode : BitVec 4
  deriving DecidableEq, Repr

/-- PHASE, the engine's control state (10_state.md R43). -/
inductive Phase where
  | idle
  | findRun
  | encBlock
  | encChunk
  | encFlush
  deriving DecidableEq, Repr

/-- The transient registers of one FindLongestMatch evaluation (10_state.md R45). HI can be MID - 1,
so it is an integer (00_scope.md R10). -/
structure SearchRegs where
  ws     : Nat
  lo     : Int
  hi     : Int
  mid    : Nat
  recPos : Nat
  recLen : Nat
  deriving DecidableEq, Repr

/-! ## Memories -/

/-- A byte memory: the written bytes by rising address. An address that is not listed has not been
written since power-up (log 2). -/
abbrev Memory := List Host.Cell

/-- The canonical form: addresses strictly rising. An unlisted address holds no written byte, so no
entry equals what it holds. -/
abbrev Memory.wf (m : Memory) : Prop := m.Pairwise fun x y => x.1 < y.1

/-! ## The reference decoder -/

/-- The decoder-side error kinds (60_exceptions.md R270). -/
inductive DecodeError where
  | badMagic
  | truncatedInput
  | invalidHeader
  | invalidBackReference
  deriving DecidableEq, Repr

/-- Where a reference decoder stands (42_chunk_semantics.md R210, R215, R216). -/
inductive DecoderPhase where
  /-- No stream is being decoded. -/
  | idle
  /-- The next byte is a flag byte. -/
  | blockStart
  /-- In a block with flag byte `flag`; slot `b` is next. -/
  | slot (flag : Byte) (b : Fin 8)
  /-- Stopped with result `out`. -/
  | done
  /-- Stopped by `raise DecodeError(e)` (00_scope.md R11). -/
  | failed (e : DecodeError)
  deriving DecidableEq, Repr

/-- A reference decoder's variables: the stream S, the read index i, the output so far and the
expected length N (42_chunk_semantics.md, head), with the kind of the stream (30_encoding.md R104). -/
structure Decoder where
  kind   : StreamKind
  stream : List Byte
  idx    : Nat
  out    : List Byte
  expect : Nat
  phase  : DecoderPhase
  deriving DecidableEq, Repr

/-! ## The host's program -/

/-- The address spaces (20_memory.md R77). -/
inductive Space where
  | regs
  | imem
  | omem
  deriving DecidableEq, Repr

/-- One atomic operation of the host (20_memory.md R75, 30_encoding.md R112). `size` is the access's
width in bytes. -/
inductive HostOp where
  | write (space : Space) (off size : Nat) (v : Word)
  | read (space : Space) (off size : Nat)
  /-- The same by the platform's address map (R77). -/
  | busWrite (addr size : Nat) (v : Word)
  | busRead (addr size : Nat)
  /-- `POLL <REG>.<FIELD> == v` with the field given by its mask, `v` in place (R112). -/
  | poll (off : Nat) (mask v : Word)
  /-- Wait until IRQ = 1 (70_reset_and_hazards.md R294 step 4). -/
  | waitIrq
  /-- The reset input is asserted (R290). DESIGN CHOICE (log 33): it is one of the host's operations and comes in
  its program order. -/
  | reset
  /-- Power is cycled: a reset, and the memories' contents are lost (R290, R292). -/
  | powerUp
  /-- The host starts a reference decoder on a stream (42_chunk_semantics.md). -/
  | decode (kind : StreamKind) (stream : List Byte) (expect : Nat)
  deriving DecidableEq, Repr

/-- The agents that take steps (20_memory.md R79; the decoder is host software, log 8). -/
inductive Agent where
  | host
  | engine
  | decoder
  deriving DecidableEq, Repr

/-! ## The state -/

/-- The whole machine. The fields from `params` on are parameters and the model's own (INVENTORY.md,
State). -/
structure State where
  ctrl        : Ctrl
  status      : Status
  srcLen      : BitVec 24
  cursor      : BitVec 24
  matchPos    : BitVec 24
  matchLen    : BitVec 5
  outLen      : BitVec 25
  spDec       : BitVec 24
  spEnc       : BitVec 25
  bestSavings : BitVec 24
  peakCursor  : BitVec 24
  phase       : Phase
  flagPtr     : BitVec 25
  flagAcc     : BitVec 8
  chunkIdx    : Fin 8
  search      : SearchRegs
  imem        : Memory
  omem        : Memory
  decoder     : Decoder
  params      : Params
  powerUp     : Nat
  freeCtr     : Nat
  hostOps     : List HostOp
  hostSeen    : List Word
  turns       : List Agent
  deriving DecidableEq, Repr

/-- Why the machine stops. No state that meets the invariant of Safety.lean raises one of the engine's
(60_exceptions.md R267). -/
inductive Fault where
  /-- A host access to an address in none of the three spaces (20_memory.md R77). Raised by the host's
  reads and writes. Safe: the model stops. -/
  | noSuchAddress
  /-- An engine step with CTRL.MODE reserved, which START refuses (60_exceptions.md R261). Raised by
  engine steps of unreachable states only. Safe. -/
  | noActivePreset
  /-- An engine step with SRC_LEN above IMEM_SIZE, which START refuses (R261). Raised by engine steps of
  unreachable states only. Safe. -/
  | imemRange
  /-- FIND's step with CURSOR at or above SRC_LEN, where FindLongestMatch is not defined
  (40_match_search.md R150). Raised by engine steps of unreachable states only. Safe. -/
  | searchDomain
  /-- An engine write to OMEM at or above OMEM_SIZE (R267). Raised by engine steps of unreachable states
  only. Safe. -/
  | omemRange
  deriving DecidableEq, Repr

/-- Why the model gives a step no meaning. -/
inductive Refusal where
  /-- An instruction with no meaning yet. Raised by exec alone. Safe. -/
  | notModelled (mnemonic : String)
  /-- A register access that is not one aligned 32-bit word (20_memory.md R73, U10), or a memory access
  that is not one byte (R75, log 15). Raised by the host's reads and writes. Safe. -/
  | accessWidth
  /-- A host write to IMEM or OMEM while BUSY = 1 (70_reset_and_hazards.md R295, R296, U9). Raised by the
  host's writes. Safe. -/
  | memoryWriteWhileBusy
  /-- A back-reference whose operands no encoding has (30_encoding.md R111). No decoded instruction
  raises it. Raised by execRefB and execRefI. Safe. -/
  | operandOutOfRange
  deriving DecidableEq, Repr

/-! ## Power-up and reset -/

/-- CTRL after reset (R290). -/
def Ctrl.reset : Ctrl := { op := 0, mode := 0, ie := false }

/-- STATUS after reset (R290). -/
def Status.reset : Status := { busy := false, done := false, err := false, errcode := 0 }

/-- The spec gives the search registers no reset value (R291): 0, a DESIGN CHOICE (log 7). -/
def SearchRegs.reset : SearchRegs := { ws := 0, lo := 0, hi := 0, mid := 0, recPos := 0, recLen := 0 }

/-- No decoder is running (log 8). -/
def Decoder.idle : Decoder :=
  { kind := .block, stream := [], idx := 0, out := [], expect := 0, phase := .idle }

/-- The parameters of the machine after reset: the sizes of 95_test_vectors.md's programs (log 1), the
spaces one after another (log 14), and the source's clamp (log 10). DESIGN CHOICE, all of them. -/
def paramsDefault : Params :=
  { imemSize := 64, omemSize := 64, baseReg := 0, baseImem := 0x1000000, baseOmem := 0x2000000,
    imageClamp := .compat }

/-- The machine right after power-up (R290 to R292): every register 0, the engine idle, no byte of
memory written. -/
def State.reset : State where
  ctrl        := Ctrl.reset
  status      := Status.reset
  srcLen      := 0
  cursor      := 0
  matchPos    := 0
  matchLen    := 0
  outLen      := 0
  spDec       := 0
  spEnc       := 0
  bestSavings := 0
  peakCursor  := 0
  phase       := .idle
  flagPtr     := 0
  flagAcc     := 0
  chunkIdx    := 0
  search      := SearchRegs.reset
  imem        := []
  omem        := []
  decoder     := Decoder.idle
  params      := paramsDefault
  powerUp     := 0
  freeCtr     := 0
  hostOps     := []
  hostSeen    := []
  turns       := []

end Sys2Proof.Machine
end

