-- ==== Sys2Proof/Machine/Operands.lean ====
section
/-! DEFINITION. Operand forms: the registers by offset (10_state.md R30), the host's bus addresses
(20_memory.md R77), the active preset (10_state.md R32), and the distance of a back-reference
(42_chunk_semantics.md R213, R214). -/

namespace Sys2Proof.Machine

/-- The registers of the register file (R30). -/
inductive Reg where
  | ctrl
  | status
  | srcLen
  | cursor
  | matchPos
  | matchLen
  | outLen
  | spDec
  | spEnc
  | bestSavings
  | peakCursor
  | param
  deriving DecidableEq, Repr

/-- The register at a byte offset. Every other offset is reserved (R30). -/
def Reg.ofOffset (off : Nat) : Option Reg :=
  if off = 0x00 then some .ctrl
  else if off = 0x04 then some .status
  else if off = 0x08 then some .srcLen
  else if off = 0x0C then some .cursor
  else if off = 0x10 then some .matchPos
  else if off = 0x14 then some .matchLen
  else if off = 0x18 then some .outLen
  else if off = 0x1C then some .spDec
  else if off = 0x20 then some .spEnc
  else if off = 0x24 then some .bestSavings
  else if off = 0x28 then some .peakCursor
  else if off = 0x2C then some .param
  else none

/-- The byte offset of a register (R30). -/
def Reg.offset : Reg → Nat
  | .ctrl => 0x00
  | .status => 0x04
  | .srcLen => 0x08
  | .cursor => 0x0C
  | .matchPos => 0x10
  | .matchLen => 0x14
  | .outLen => 0x18
  | .spDec => 0x1C
  | .spEnc => 0x20
  | .bestSavings => 0x24
  | .peakCursor => 0x28
  | .param => 0x2C

/-- How many low bits of a register are used (R30's table). -/
def Reg.width : Reg → Nat
  | .ctrl => 9
  | .status => 8
  | .srcLen => 24
  | .cursor => 24
  | .matchPos => 24
  | .matchLen => 5
  | .outLen => 25
  | .spDec => 24
  | .spEnc => 25
  | .bestSavings => 24
  | .peakCursor => 24
  | .param => 29

/-- The registers whose reads during BUSY return any value (70_reset_and_hazards.md R296). -/
def Reg.isResult : Reg → Bool
  | .ctrl => false
  | .status => false
  | .srcLen => false
  | .cursor => true
  | .matchPos => true
  | .matchLen => true
  | .outLen => true
  | .spDec => true
  | .spEnc => true
  | .bestSavings => true
  | .peakCursor => true
  | .param => false

/-- The register file's size in bytes: offsets 0x00 to 0xFF (R30, R77). -/
def regFileSize : Nat := 0x100

/-- The number of addresses in a space (R77). -/
def spaceSize (p : Params) : Space → Nat
  | .regs => regFileSize
  | .imem => p.imemSize
  | .omem => p.omemSize

/-- The base of a space in the host's address map (R77). -/
def spaceBase (p : Params) : Space → Nat
  | .regs => p.baseReg
  | .imem => p.baseImem
  | .omem => p.baseOmem

/-- The offset of a bus address in a space, if it lies there. -/
def offsetIn (p : Params) (sp : Space) (addr : Nat) : Option (Space × Nat) :=
  if spaceBase p sp ≤ addr ∧ addr < spaceBase p sp + spaceSize p sp
  then some (sp, addr - spaceBase p sp) else none

/-- The space and offset of a bus address (R77). A platform that lets two spaces overlap gets the
first of register file, IMEM and OMEM (log 14). -/
def locate (p : Params) (addr : Nat) : Option (Space × Nat) :=
  (offsetIn p .regs addr).orElse fun _ => (offsetIn p .imem addr).orElse fun _ => offsetIn p .omem addr

/-- The active parameter set P (R32). -/
def State.preset (s : State) : Option Preset := presetOf s.ctrl.mode

/-- The distance REF.B copies from: the block decoder has no clamp (R213). -/
def refBDistance (written dist : Nat) : Except DecodeError Nat :=
  if written < dist then .error .invalidBackReference else .ok dist

/-- The distance REF.I copies from: beyond the bytes written it is clamped to 2, if that many are
written and IMAGE_CLAMP is compat (R214). -/
def refIDistance (clamp : ClampMode) (written dist : Nat) : Except DecodeError Nat :=
  if written < dist then
    match clamp with
    | .strict => .error .invalidBackReference
    | .compat => if written < 2 then .error .invalidBackReference else .ok 2
  else .ok dist

end Sys2Proof.Machine
end

