-- ==== Sys2Proof/Machine/Flags.lean ====
section
/-! DEFINITION. The flag-like state (10_state.md R49): the words of STATUS, CTRL and PARAM, the IRQ
level, write-1-to-clear, the per-block flag accumulator, and the savings trace's comparison. -/

namespace Sys2Proof.Machine

/-- STATUS as read: `ERRCODE << 4 | ERR << 2 | DONE << 1 | BUSY` (R33). -/
def Status.word (st : Status) : Word :=
  0#24 ++ st.errcode ++ 0#1 ++ BitVec.ofBool st.err ++ BitVec.ofBool st.done ++ BitVec.ofBool st.busy

/-- CTRL as read: START reads 0 (R31). -/
def Ctrl.word (c : Ctrl) : Word := ctrlWordOf false c.op c.mode c.ie

/-- PARAM's value for a preset (R40). -/
def presetWord (P : Preset) : Word :=
  0#3 ++ BitVec.ofNat 13 P.maxMatchDiff ++ 0#7 ++ BitVec.ofNat 5 P.maxMatchLength ++
    BitVec.ofBool P.zeroFill ++ BitVec.ofBool P.searchReverse ++ BitVec.ofNat 2 P.posSubtract

/-- PARAM as read: it follows CTRL.MODE, and reads 0 for a reserved one (R40, U4). -/
def paramWord (mode : BitVec 2) : Word :=
  match presetOf mode with
  | some P => presetWord P
  | none => 0

/-- The IRQ level, DONE AND IE (R42, 60_exceptions.md R268). -/
def State.irq (s : State) : Bool := s.status.done && s.ctrl.ie

/-- A write to STATUS: a 1 in bit 1 clears DONE, a 1 in bit 2 clears ERR, all else stays (R33). -/
def Status.w1c (st : Status) (w : Word) : Status :=
  { st with done := st.done && !(w.getLsbD 1), err := st.err && !(w.getLsbD 2) }

/-- STATUS of a running command (60_exceptions.md R260). -/
def Status.accepted : Status := { busy := true, done := false, err := false, errcode := 0 }

/-- STATUS of a refused START (R263). -/
def Status.refused (code : BitVec 4) : Status := { busy := false, done := true, err := true, errcode := code }

/-- STATUS at an accepted command's last step: ERR and ERRCODE stay (R264). -/
def Status.completed (st : Status) : Status := { st with busy := false, done := true }

/-- FLAG_ACC with the bit of slot `i` set (41_greedy_encoder.md R175). -/
def accWithRef (acc : BitVec 8) (i : Fin 8) : BitVec 8 := acc ||| flagBit i.val

/-- The flag bit of slot `b`, MSB first (42_chunk_semantics.md R210, 20_memory.md R72). -/
def slotIsRef (flag : Byte) (b : Fin 8) : Bool := flag.getLsbD (7 - b.val)

/-- The savings `CURSOR - OUT_LEN`, a signed integer (41_greedy_encoder.md R177, 00_scope.md R10). -/
def savings (cursor outLen : Nat) : Int := (cursor : Int) - (outLen : Int)

/-- Whether the savings are a new maximum: the comparison is strict (R177). -/
def newPeak (cursor outLen best : Nat) : Bool := (best : Int) < savings cursor outLen

end Sys2Proof.Machine
end

