-- ==== Sys2Proof/Machine/Ops.lean ====
section
/-! DEFINITION. The named operations over memory and registers that every meaning is written with:
byte access to the memories, register reads and writes, issuing a command (60_exceptions.md R260 to
R262), the engine's one trap and the return from it (R263, R265), completion (R264), reset
(70_reset_and_hazards.md R290 to R293), and the moves of the reference decoder. -/

namespace Sys2Proof.Machine

/-! ## Named updates of the state -/

/-- CTRL replaced. -/
def State.setCtrl (s : State) (c : Ctrl) : State := { s with ctrl := c }

/-- STATUS replaced. -/
def State.setStatus (s : State) (st : Status) : State := { s with status := st }

/-- OMEM replaced. -/
def State.setOmem (s : State) (m : Memory) : State := { s with omem := m }

/-- IMEM replaced. -/
def State.setImem (s : State) (m : Memory) : State := { s with imem := m }

/-- The search registers replaced. -/
def State.setSearch (s : State) (r : SearchRegs) : State := { s with search := r }

/-- The reference decoder replaced. -/
def State.setDecoder (s : State) (d : Decoder) : State := { s with decoder := d }

/-- The host's pending operations replaced. -/
def State.setHostOps (s : State) (ops : List HostOp) : State := { s with hostOps := ops }

/-- The turns replaced. -/
def State.setTurns (s : State) (ts : List Agent) : State := { s with turns := ts }

/-- The host has read `w` (the model's record of it, log 6). -/
def State.seen (s : State) (w : Word) : State := { s with hostSeen := s.hostSeen ++ [w] }

/-- A command or a reset ends: the engine is idle with this STATUS. -/
def State.endWith (s : State) (st : Status) : State := { s with phase := .idle, status := st }

/-! ## Bytes of memory -/

/-- The byte written last at an address, if any. -/
def Memory.get? : Memory → Nat → Option Byte
  | [], _ => none
  | (k, v) :: m, a => if k = a then some v else Memory.get? m a

/-- A byte is written. The canonical form is kept. -/
def Memory.set : Memory → Nat → Byte → Memory
  | [], a, v => [(a, v)]
  | (k, w) :: m, a, v =>
    if a < k then (a, v) :: (k, w) :: m
    else if a = k then (a, v) :: m
    else (k, w) :: Memory.set m a v

/-- IMEM[a]: the byte written there, else what power-up left (R292, log 2). -/
def State.imemByte (s : State) (a : Nat) : Byte :=
  (s.imem.get? a).getD (Config.powerUpImem s.powerUp a)

/-- OMEM[a]: the byte written there, else what power-up left (R292, log 2). -/
def State.omemByte (s : State) (a : Nat) : Byte :=
  (s.omem.get? a).getD (Config.powerUpOmem s.powerUp a)

/-- The engine's `MemWrite(OMEM, a, 1, v)` (20_memory.md R71). -/
def State.writeOmem (s : State) (a : Nat) (v : Byte) : Except Fault State :=
  if a < s.params.omemSize then .ok (s.setOmem (s.omem.set a v)) else .error .omemRange

/-- `OMEM[0 .. OUT_LEN)`, the encoded stream (10_state.md R37). -/
def State.encodedStream (s : State) : List Byte :=
  (List.range s.outLen.toNat).map s.omemByte

/-- `IMEM[0 .. SRC_LEN)`, the input (10_state.md R34). -/
def State.inputBytes (s : State) : List Byte :=
  (List.range s.srcLen.toNat).map s.imemByte

/-! ## START: the checks (60_exceptions.md R261, R262) -/

/-- The causes of a refused START (R261). -/
inductive StartError where
  | opReserved
  | modeReserved
  | srcRange
  | cursorRange
  | outCapacity
  deriving DecidableEq, Repr

/-- STATUS.ERRCODE of a cause (R261). -/
def StartError.code : StartError → BitVec 4
  | .opReserved => 1
  | .modeReserved => 2
  | .srcRange => 3
  | .cursorRange => 4
  | .outCapacity => 5

/-- `ceil(n / 8)` (R261). -/
def ceilEighth (n : Nat) : Nat := (n + 7) / 8

/-- The most bytes an ENCODE of `n` bytes writes: `n + ceil(n / 8) + 7 * zeroFill` (R261,
41_greedy_encoder.md R183). -/
def outBound (P : Preset) (n : Nat) : Nat :=
  n + ceilEighth n + (if P.zeroFill then 7 else 0)

/-- The checks that need the preset, in R262's order. -/
def checkWithPreset (op : BitVec 2) (P : Preset) (s : State) : Option StartError :=
  if s.params.imemSize < s.srcLen.toNat then some .srcRange
  else if op = opFind ∧ s.srcLen.toNat ≤ s.cursor.toNat then some .cursorRange
  else if op = opEncode ∧ s.params.omemSize < outBound P s.srcLen.toNat then some .outCapacity
  else none

/-- `Check(OP, MODE)`: the first cause in order (R262). -/
def checkStart (op mode : BitVec 2) (s : State) : Option StartError :=
  if op = 0 ∨ op = 3 then some .opReserved
  else
    match presetOf mode with
    | none => some .modeReserved
    | some P => checkWithPreset op P s

/-! ## The trap and its return -/

/-- TAKING THE ENGINE'S EXCEPTION: a refused START writes STATUS and nothing else (R263). -/
def refuseStart (e : StartError) (s : State) : State := s.setStatus (Status.refused e.code)

/-- THE RETURN FROM IT: the host's write-1-to-clear of DONE and ERR (R265, 10_state.md R33). -/
def acknowledge (w : Word) (s : State) : State := s.setStatus (s.status.w1c w)

/-! ## Issuing a command (R260) -/

/-- An accepted FIND (R260, 40_match_search.md R149). -/
def acceptFind (s : State) : State := { s with status := Status.accepted, phase := .findRun }

/-- An accepted ENCODE (R260, 41_greedy_encoder.md R171). -/
def acceptEncode (s : State) : State :=
  { s with
    status := Status.accepted
    cursor := 0
    outLen := 0
    spDec := 0
    spEnc := 0
    bestSavings := 0
    peakCursor := 0
    phase := .encBlock }

/-- START with the fields just written to CTRL (R260). -/
def issue (s : State) : State :=
  match checkStart s.ctrl.op s.ctrl.mode s with
  | some e => refuseStart e s
  | none => if s.ctrl.op = opFind then acceptFind s else acceptEncode s

/-- A CTRL write with START = 1: ignored while BUSY (R266), else its fields are stored and the
command is issued (R260). -/
def startCommand (op mode : BitVec 2) (ie : Bool) (s : State) : State :=
  if s.status.busy then s else issue (s.setCtrl { op := op, mode := mode, ie := ie })

/-! ## Registers -/

/-- A write to CTRL (10_state.md R31, R260, R297). -/
def writeCtrl (w : Word) (s : State) : State :=
  if ctrlStart w then startCommand (ctrlOp w) (ctrlMode w) (ctrlIe w) s
  else if s.status.busy then s
  else s.setCtrl { op := ctrlOp w, mode := ctrlMode w, ie := ctrlIe w }

/-- A write to a register (R30): read-only registers ignore it always, the writable ones while BUSY
(70_reset_and_hazards.md R297), and reserved bits are dropped. -/
def writeReg (r : Reg) (w : Word) (s : State) : State :=
  match r with
  | .ctrl => writeCtrl w s
  | .status => if s.status.busy then s else acknowledge w s
  | .srcLen => if s.status.busy then s else { s with srcLen := w.setWidth 24 }
  | .cursor => if s.status.busy then s else { s with cursor := w.setWidth 24 }
  | .matchPos => s
  | .matchLen => s
  | .outLen => s
  | .spDec => s
  | .spEnc => s
  | .bestSavings => s
  | .peakCursor => s
  | .param => s

/-- What a register holds, as the word a read returns (R30 to R40). -/
def regWord (r : Reg) (s : State) : Word :=
  match r with
  | .ctrl => s.ctrl.word
  | .status => s.status.word
  | .srcLen => s.srcLen.setWidth 32
  | .cursor => s.cursor.setWidth 32
  | .matchPos => s.matchPos.setWidth 32
  | .matchLen => s.matchLen.setWidth 32
  | .outLen => s.outLen.setWidth 32
  | .spDec => s.spDec.setWidth 32
  | .spEnc => s.spEnc.setWidth 32
  | .bestSavings => s.bestSavings.setWidth 32
  | .peakCursor => s.peakCursor.setWidth 32
  | .param => paramWord s.ctrl.mode

/-- The next free value, cut to `width` bits (R296, log 3). -/
def State.freeValue (s : State) (width : Nat) : Word :=
  Config.freeWord s.freeCtr &&& BitVec.ofNat 32 (2 ^ width - 1)

/-- A free value has been used. -/
def State.nextFree (s : State) : State := { s with freeCtr := s.freeCtr + 1 }

/-- A host read of a register: exact, but for a result register while BUSY (R296). -/
def readReg (r : Reg) (s : State) : Word × State :=
  if s.status.busy && r.isResult then (s.freeValue r.width, s.nextFree) else (regWord r s, s)

/-! ## Completion and reset -/

/-- An accepted command's last step (R264). -/
def complete (s : State) : State := s.endWith s.status.completed

/-- The reset input (R290, R291, R293): every register at its reset value, the engine idle, the
memories as they stand. The search registers have no reset value and stay (log 24). -/
def resetEngine (s : State) : State :=
  { s with
    ctrl := Ctrl.reset
    status := Status.reset
    srcLen := 0
    cursor := 0
    matchPos := 0
    matchLen := 0
    outLen := 0
    spDec := 0
    spEnc := 0
    bestSavings := 0
    peakCursor := 0
    phase := .idle
    flagPtr := 0
    flagAcc := 0
    chunkIdx := 0 }

/-- Power is cycled: a reset, and every byte of both memories is any value again (R290, R292). -/
def powerCycle (s : State) : State :=
  { resetEngine s with imem := [], omem := [], powerUp := s.powerUp + 1 }

/-! ## Moves of the reference decoder (42_chunk_semantics.md) -/

/-- A decoder at the start of a stream. -/
def Decoder.start (kind : StreamKind) (stream : List Byte) (expect : Nat) : Decoder :=
  { kind := kind, stream := stream, idx := 0, out := [], expect := expect, phase := .blockStart }

/-- The stop condition `|out| = N` (R215, R216), which holds from then on (log 29). -/
def Decoder.full (d : Decoder) : Bool := d.expect ≤ d.out.length

/-- Stopped with result `out` (R215). -/
def Decoder.finish (d : Decoder) : Decoder := { d with phase := .done }

/-- `raise DecodeError(e)` (00_scope.md R11). -/
def Decoder.fail (d : Decoder) (e : DecodeError) : Decoder := { d with phase := .failed e }

/-- `n` stream bytes have been read. -/
def Decoder.skip (d : Decoder) (n : Nat) : Decoder := { d with idx := d.idx + n }

/-- The next slot of the block, or the next block after the eighth (R210). -/
def Decoder.nextSlot (d : Decoder) : Decoder :=
  match d.phase with
  | .slot f b => if h : b.val < 7 then { d with phase := .slot f ⟨b.val + 1, by omega⟩ } else { d with phase := .blockStart }
  | .idle => d
  | .blockStart => d
  | .done => d
  | .failed _ => d

/-- After a chunk: stopped as soon as `|out| = N`, even mid-block, else at the next slot (R215, R210). -/
def Decoder.afterChunk (d : Decoder) : Decoder := if d.full then d.finish else d.nextSlot

/-- The byte-serial copy of a back-reference (R212, 70_reset_and_hazards.md R299): it stops at N
(R215) and never reads before index 0 (R300). -/
def copyBytes (expect dist : Nat) : (count : Nat) → (out : List Byte) → List Byte
  | 0, out => out
  | k + 1, out =>
    if expect ≤ out.length then out
    else
      match out[out.length - dist]? with
      | some b => copyBytes expect dist k (out ++ [b])
      | none => out

/-- A back-reference whose distance check came out as `dist` (R212 to R214). -/
def Decoder.copyRef (d : Decoder) (len : Nat) (dist : Except DecodeError Nat) : Decoder :=
  match dist with
  | .error e => (d.skip 2).fail e
  | .ok k => { d.skip 2 with out := copyBytes d.expect k len d.out }.afterChunk

/-- A decoder does a chunk or a flag byte only while `|out| < N` (R210, R215, R300). -/
def Decoder.unlessFull (d : Decoder) (f : Decoder → Decoder) : Decoder :=
  if d.full then d.finish else f d

/-- What the decoder has come to: its output, or its error and no partial result (R270, 45_host_framing.md
R248). -/
def Decoder.result (d : Decoder) : Option (Except DecodeError (List Byte)) :=
  match d.phase with
  | .done => some (.ok d.out)
  | .failed e => some (.error e)
  | .idle => none
  | .blockStart => none
  | .slot _ _ => none

end Sys2Proof.Machine
end

