-- ==== Sys2Proof/Machine/Chunks.lean ====
section
/-! DEFINITION. The meanings of FLAG, LIT, REF.B and REF.I: what a reference decoder does with them
(42_chunk_semantics.md R210 to R216), and the two decoders as functions. -/

namespace Sys2Proof.Machine

/-! ## One item, on a decoder -/

/-- FLAG (R210): the block's first slot is next. DESIGN CHOICE (log 19): so it is when executed elsewhere than
at a block's start. -/
def Decoder.flag (f : Byte) (d : Decoder) : Decoder :=
  d.unlessFull fun d => { d.skip 1 with phase := .slot f 0 }

/-- LIT (R211): the byte is appended. DESIGN CHOICE (log 19): so it is in a slot whose flag bit is 1, and
where no slot is next. -/
def Decoder.lit (b : Byte) (d : Decoder) : Decoder :=
  d.unlessFull fun d => { d.skip 1 with out := d.out ++ [b] }.afterChunk

/-- REF.B (R212, R213). DESIGN CHOICE (log 19): the effect is the same in a slot whose flag bit is 0, on an
IMAGE decoder, and where no slot is next. -/
def Decoder.refB (len dist : Nat) (d : Decoder) : Decoder :=
  d.unlessFull fun d => d.copyRef len (refBDistance d.out.length dist)

/-- REF.I (R214). DESIGN CHOICE (log 19): the effect is the same in a slot whose flag bit is 0, on a BLOCK
decoder, and where no slot is next. -/
def Decoder.refI (clamp : ClampMode) (len dist : Nat) (d : Decoder) : Decoder :=
  d.unlessFull fun d => d.copyRef len (refIDistance clamp d.out.length dist)

/-! ## The meanings -/

/-- FLAG (R210). -/
def execFlag (f : Byte) (s : State) : Host.Outcome State Fault Refusal :=
  .next (s.setDecoder (s.decoder.flag f))

/-- LIT (R211). -/
def execLit (b : Byte) (s : State) : Host.Outcome State Fault Refusal :=
  .next (s.setDecoder (s.decoder.lit b))

/-- REF.B (R212). Operands that no encoding has are refused (30_encoding.md R111). -/
def execRefB (len dist : Nat) (s : State) : Host.Outcome State Fault Refusal :=
  if refWellFormed Preset.block len dist then .next (s.setDecoder (s.decoder.refB len dist))
  else .refused .operandOutOfRange

/-- REF.I (R214). Operands that no encoding has are refused (R111). -/
def execRefI (len dist : Nat) (s : State) : Host.Outcome State Fault Refusal :=
  if refWellFormed Preset.image len dist then
    .next (s.setDecoder (s.decoder.refI s.params.imageClamp len dist))
  else .refused .operandOutOfRange

/-! ## The decoder's own step -/

/-- What a decoder does next: it runs an item, or it moves without one (stops, or has stopped). -/
inductive DecoderMove where
  | run (i : Instr)
  | rest (d : Decoder)
  deriving DecidableEq, Repr

/-- Where the next item stands, if the decoder is running (R210). -/
def Decoder.place (d : Decoder) : Option DecodePlace :=
  match d.phase with
  | .blockStart => some .blockStart
  | .slot f b => some (.slot (slotIsRef f b) d.kind)
  | .idle => none
  | .done => none
  | .failed _ => none

/-- Whether the decoder is running. -/
def Decoder.running (d : Decoder) : Bool := d.place.isSome

/-- Before each slot and block the stop condition is tested; then the next item is read, and a
stream that ends inside it, or before `|out| = N`, is truncated (R210, R211, R212, R215, R216). -/
def Decoder.move (d : Decoder) : DecoderMove :=
  match d.place with
  | none => .rest d
  | some place =>
    if d.full then .rest d.finish
    else
      match decode place (.stream (d.stream.drop d.idx)) with
      | .ok (i, _) => .run i
      | .error _ => .rest (d.fail .truncatedInput)

/-- An item on a decoder. No command stands in a stream. -/
def Decoder.item (clamp : ClampMode) (i : Instr) (d : Decoder) : Decoder :=
  match i with
  | .flag f => d.flag f
  | .lit b => d.lit b
  | .refB len dist => d.refB len dist
  | .refI len dist => d.refI clamp len dist
  | .find _ _ => d
  | .encode _ _ => d

/-- One step of a decoder. -/
def Decoder.step (clamp : ClampMode) (d : Decoder) : Decoder :=
  match d.move with
  | .run i => d.item clamp i
  | .rest d' => d'

/-- `k` steps of a decoder. -/
def Decoder.run (clamp : ClampMode) : (k : Nat) → Decoder → Decoder
  | 0, d => d
  | k + 1, d => Decoder.run clamp k (d.step clamp)

/-- `BlockDecode(S, N)` and `ImageDecode(S, N)` (R210 to R216). Every step but the last reads at least
one byte, so |S| + 1 steps are enough to stop. -/
def decodeStream (kind : StreamKind) (clamp : ClampMode) (stream : List Byte) (n : Nat) :
    Except DecodeError (List Byte) :=
  match (Decoder.run clamp (stream.length + 1) (Decoder.start kind stream n)).result with
  | some r => r
  | none => .error .truncatedInput

/-- `BlockDecode(S, N)` (R215). The clamp is the image decoder's alone, so any value of it serves. -/
def blockDecode (stream : List Byte) (n : Nat) : Except DecodeError (List Byte) :=
  decodeStream .block .strict stream n

/-- `ImageDecode(S, N)` under IMAGE_CLAMP (R214, R216). -/
def imageDecode (clamp : ClampMode) (stream : List Byte) (n : Nat) : Except DecodeError (List Byte) :=
  decodeStream .image clamp stream n

end Sys2Proof.Machine
end

