-- ==== Sys2Proof/Machine/Search.lean ====
section
/-! DEFINITION. FindLongestMatch (40_match_search.md R140 to R144). `rd a` is IMEM[a], `n` is SRC_LEN. -/

namespace Sys2Proof.Machine

/-- `WS = max(0, c - maxMatchDiff)` (R140). -/
def windowStart (P : Preset) (c : Nat) : Nat := c - P.maxMatchDiff

/-- `U = min(maxMatchLength, N - c)` (R141). -/
def lengthCap (P : Preset) (n c : Nat) : Nat := min P.maxMatchLength (n - c)

/-- `Occurs(c, WS, p, m)`: the whole occurrence lies in the window (R142). -/
def occurs (rd : Nat → Byte) (c ws p m : Nat) : Bool :=
  ws ≤ p && p + m ≤ c && (List.range m).all fun k => rd (p + k) == rd (c + k)

/-- The positions of the window and its end, `WS` to `c`, rising. -/
def positions (ws c : Nat) : List Nat := List.range' ws (c + 1 - ws)

/-- `Select(c, WS, m)`: the earliest occurrence, or the latest if searchReverse (R143). -/
def select (rd : Nat → Byte) (reverse : Bool) (c ws m : Nat) : Option Nat :=
  if reverse then (positions ws c).reverse.find? fun p => occurs rd c ws p m
  else (positions ws c).find? fun p => occurs rd c ws p m

/-- One iteration of the loop (R144). -/
def searchIter (rd : Nat → Byte) (P : Preset) (c : Nat) (r : SearchRegs) : SearchRegs :=
  let mid := ((r.lo + r.hi) / 2).toNat
  match select rd P.searchReverse c r.ws mid with
  | none => { r with mid := mid, hi := (mid : Int) - 1 }
  | some p =>
    if r.recLen < mid then { r with mid := mid, lo := (mid : Int) + 1, recPos := p, recLen := mid }
    else { r with mid := mid, lo := (mid : Int) + 1 }

/-- `while LO <= HI` (R144), with more fuel than it takes iterations. -/
def searchLoop (rd : Nat → Byte) (P : Preset) (c : Nat) : (fuel : Nat) → SearchRegs → SearchRegs
  | 0, r => r
  | k + 1, r => if r.lo ≤ r.hi then searchLoop rd P c k (searchIter rd P c r) else r

/-- The registers as the evaluation begins (R144). -/
def searchInit (P : Preset) (n c : Nat) : SearchRegs :=
  { ws := windowStart P c, lo := 0, hi := (lengthCap P n c : Int), mid := 0, recPos := 0, recLen := 0 }

/-- `FindLongestMatch(c)`: the search registers at its end; the result is (REC_POS, REC_LEN) (R144). -/
def findLongestMatch (rd : Nat → Byte) (P : Preset) (n c : Nat) : SearchRegs :=
  searchLoop rd P c (lengthCap P n c + 1) (searchInit P n c)

end Sys2Proof.Machine
end

