-- ==== Sys2Proof/Machine/Engine.lean ====
section
/-! DEFINITION. The engine's atomic steps: FIND's one step (40_match_search.md R149) and ENCODE's
block-start, chunk, flush and end steps (41_greedy_encoder.md R172 to R180). -/

namespace Sys2Proof.Machine

/-- One evaluation of FindLongestMatch at CURSOR (R144), with the preset it ran under. Outside the
domain of R150, which no started command leaves, it faults. -/
def searchAtCursor (s : State) : Except Fault (Preset × SearchRegs) :=
  match s.preset with
  | none => .error .noActivePreset
  | some P =>
    if s.params.imemSize < s.srcLen.toNat then .error .imemRange
    else if s.srcLen.toNat ≤ s.cursor.toNat then .error .searchDomain
    else .ok (P, findLongestMatch s.imemByte P s.srcLen.toNat s.cursor.toNat)

/-- FIND's step (R149). -/
def findStep (s : State) : Except Fault State :=
  match searchAtCursor s with
  | .error e => .error e
  | .ok (_, r) =>
    .ok (complete { s with
      search := r
      matchPos := BitVec.ofNat 24 r.recPos
      matchLen := BitVec.ofNat 5 r.recLen })

/-- R178: the next slot, or the flush after the eighth. -/
def advanceChunk (s : State) : State :=
  if h : s.chunkIdx.val < 7 then { s with chunkIdx := ⟨s.chunkIdx.val + 1, by omega⟩ }
  else { s with phase := .encFlush }

/-- R177: the savings trace after a LIT or REF. -/
def updateTrace (s : State) : State :=
  if newPeak s.cursor.toNat s.outLen.toNat s.bestSavings.toNat then
    { s with
      bestSavings := BitVec.ofNat 24 (savings s.cursor.toNat s.outLen.toNat).toNat
      peakCursor := s.cursor
      spDec := 0
      spEnc := 0 }
  else s

/-- The registers that an emitted chunk moves: `consumed` input bytes became `emitted` stream bytes
(R175, R176). -/
def countChunk (consumed emitted : Nat) (s : State) : State :=
  { s with
    outLen := BitVec.ofNat 25 (s.outLen.toNat + emitted)
    cursor := BitVec.ofNat 24 (s.cursor.toNat + consumed)
    spDec := BitVec.ofNat 24 (s.spDec.toNat + consumed)
    spEnc := BitVec.ofNat 25 (s.spEnc.toNat + emitted) }

/-- R175: a back-reference of length `len` to position `p`. -/
def emitRef (P : Preset) (p len : Nat) (s : State) : Except Fault State :=
  let field := refField len (s.cursor.toNat - p - P.posSubtract)
  match s.writeOmem s.outLen.toNat (field.extractLsb' 8 8) with
  | .error e => .error e
  | .ok s1 =>
    match s1.writeOmem (s.outLen.toNat + 1) (field.extractLsb' 0 8) with
    | .error e => .error e
    | .ok s2 => .ok { countChunk len 2 s2 with flagAcc := accWithRef s.flagAcc s.chunkIdx }

/-- R176: the literal at CURSOR. -/
def emitLit (s : State) : Except Fault State :=
  match s.writeOmem s.outLen.toNat (s.imemByte s.cursor.toNat) with
  | .error e => .error e
  | .ok s1 => .ok (countChunk 1 1 s1)

/-- R174's choice: a match longer than 2 is emitted as a back-reference, else the literal. -/
def emitChunk (P : Preset) (r : SearchRegs) (s : State) : Except Fault State :=
  if 2 < r.recLen then emitRef P r.recPos r.recLen s else emitLit s

/-- R174: the selector, with input left. -/
def selectorStep (s : State) : Except Fault State :=
  match searchAtCursor s with
  | .error e => .error e
  | .ok (P, r) =>
    match emitChunk P r (s.setSearch r) with
    | .error e => .error e
    | .ok s1 => .ok (advanceChunk (updateTrace s1))

/-- R173: a slot after the input is exhausted. -/
def exhaustedStep (s : State) : Except Fault State :=
  match s.preset with
  | none => .error .noActivePreset
  | some P =>
    if P.zeroFill then
      match s.writeOmem s.outLen.toNat 0 with
      | .error e => .error e
      | .ok s1 => .ok (advanceChunk { s1 with outLen := BitVec.ofNat 25 (s.outLen.toNat + 1) })
    else .ok (advanceChunk s)

/-- The chunk step (R173, R174). -/
def chunkStep (s : State) : Except Fault State :=
  if s.cursor.toNat < s.srcLen.toNat then selectorStep s else exhaustedStep s

/-- The block-start step (R172), which ends the run when no input is left (R180). -/
def blockStep (s : State) : Except Fault State :=
  if s.cursor.toNat < s.srcLen.toNat then
    match s.writeOmem s.outLen.toNat 0 with
    | .error e => .error e
    | .ok s1 =>
      .ok { s1 with
        flagPtr := s.outLen
        outLen := BitVec.ofNat 25 (s.outLen.toNat + 1)
        spEnc := BitVec.ofNat 25 (s.spEnc.toNat + 1)
        flagAcc := 0
        chunkIdx := 0
        phase := .encChunk }
  else .ok (complete s)

/-- The flush step (R179). -/
def flushStep (s : State) : Except Fault State :=
  match s.writeOmem s.flagPtr.toNat s.flagAcc with
  | .error e => .error e
  | .ok s1 => .ok { s1 with phase := .encBlock }

/-- The engine's step by PHASE (10_state.md R43). Idle, it waits (70_reset_and_hazards.md R294). -/
def engineMove (s : State) : Except Fault State :=
  match s.phase with
  | .idle => .ok s
  | .findRun => findStep s
  | .encBlock => blockStep s
  | .encChunk => chunkStep s
  | .encFlush => flushStep s

/-- The engine's step as an outcome. -/
def engineStep (s : State) : Host.Outcome State Fault Refusal :=
  match engineMove s with
  | .ok t => .next t
  | .error e => .fault e

/-- `k` engine steps with no other agent's between them. -/
def engineRun : (k : Nat) → State → Host.Outcome State Fault Refusal
  | 0, s => .next s
  | k + 1, s =>
    match engineMove s with
    | .ok t => engineRun k t
    | .error e => .fault e

end Sys2Proof.Machine
end

