-- ==== Sys2Proof/Machine/Commands.lean ====
section
/-! DEFINITION. The meanings of the commands FIND and ENCODE: the host's CTRL write step
(60_exceptions.md R260). The engine's own steps follow (Machine/Engine.lean). -/

namespace Sys2Proof.Machine

/-- FIND (40_match_search.md R149): its START. -/
def execFind (mode : BitVec 2) (ie : Bool) (s : State) : Host.Outcome State Fault Refusal :=
  .next (startCommand opFind mode ie s)

/-- ENCODE (41_greedy_encoder.md R170, R171): its START. -/
def execEncode (mode : BitVec 2) (ie : Bool) (s : State) : Host.Outcome State Fault Refusal :=
  .next (startCommand opEncode mode ie s)

end Sys2Proof.Machine
end

