-- ==== Sys2Proof/Machine/Dispatch.lean ====
section
/-! DEFINITION. The meaning of every instruction: one arm per constructor of Instr. -/

namespace Sys2Proof.Machine

def exec (i : Instr) (s : State) : Host.Outcome State Fault Refusal :=
  match i with
  | .flag f => Sys2Proof.Machine.execFlag f s
  | .lit b => Sys2Proof.Machine.execLit b s
  | .refB len dist => Sys2Proof.Machine.execRefB len dist s
  | .refI len dist => Sys2Proof.Machine.execRefI len dist s
  | .find mode ie => Sys2Proof.Machine.execFind mode ie s
  | .encode mode ie => Sys2Proof.Machine.execEncode mode ie s

end Sys2Proof.Machine
end

