-- ==== Sys2Proof/Machine/HostBus.lean ====
section
/-! DEFINITION. The host's operations (20_memory.md R73, R76, R77, R79; 30_encoding.md R112;
70_reset_and_hazards.md R290 to R297). -/

namespace Sys2Proof.Machine

/-- The operation by space and offset: a bus address that lies in no space has none (R77). -/
def HostOp.resolve (p : Params) : HostOp → Option HostOp
  | .busWrite addr size v => (locate p addr).map fun x => .write x.1 x.2 size v
  | .busRead addr size => (locate p addr).map fun x => .read x.1 x.2 size
  | .write sp off size v => some (.write sp off size v)
  | .read sp off size => some (.read sp off size)
  | .poll off mask v => some (.poll off mask v)
  | .waitIrq => some .waitIrq
  | .reset => some .reset
  | .powerUp => some .powerUp
  | .decode kind stream n => some (.decode kind stream n)

/-- The access width of a space and its alignment: whole aligned words of the register file (R73),
single bytes of the memories (R75, log 15). -/
def widthAllowed (sp : Space) (off size : Nat) : Bool :=
  match sp with
  | .regs => size == 4 && off % 4 == 0
  | .imem => size == 1
  | .omem => size == 1

/-- Write to an existing location with an allowed width. -/
def writeSpace (sp : Space) (off : Nat) (v : Word) (s : State) : Host.Outcome State Fault Refusal :=
  match sp with
  | .regs =>
    match Reg.ofOffset off with
    | some r => .next (writeReg r v s)
    | none => .next s
  | .imem =>
    if s.status.busy then .refused .memoryWriteWhileBusy
    else .next (s.setImem (s.imem.set off (v.setWidth 8)))
  | .omem =>
    if s.status.busy then .refused .memoryWriteWhileBusy
    else .next (s.setOmem (s.omem.set off (v.setWidth 8)))

/-- A host write (R77: the location must exist; R73). -/
def hostWrite (sp : Space) (off size : Nat) (v : Word) (s : State) : Host.Outcome State Fault Refusal :=
  if spaceSize s.params sp ≤ off then .fault .noSuchAddress
  else if widthAllowed sp off size then writeSpace sp off v s
  else .refused .accessWidth

/-- What a read of a byte memory returns: exact, but any value while BUSY (R296 for OMEM, log 4 for
IMEM). -/
def readByte (exact : Byte) (s : State) : Word × State :=
  if s.status.busy then (s.freeValue 8, s.nextFree) else (exact.setWidth 32, s)

/-- Read from an existing location with an allowed width. Reserved offsets read 0 (R30). -/
def readSpace (sp : Space) (off : Nat) (s : State) : Word × State :=
  match sp with
  | .regs =>
    match Reg.ofOffset off with
    | some r => readReg r s
    | none => (0, s)
  | .imem => readByte (s.imemByte off) s
  | .omem => readByte (s.omemByte off) s

/-- A host read: no state of the block changes (R76); the host has the value (log 6). -/
def hostRead (sp : Space) (off size : Nat) (s : State) : Host.Outcome State Fault Refusal :=
  if spaceSize s.params sp ≤ off then .fault .noSuchAddress
  else if widthAllowed sp off size then
    .next ((readSpace sp off s).2.seen (readSpace sp off s).1)
  else .refused .accessWidth

/-- A poll reads once; unless the field has the value, the operation is pending again (R112). -/
def hostPoll (off : Nat) (mask v : Word) (s : State) : Host.Outcome State Fault Refusal :=
  if regFileSize ≤ off then .fault .noSuchAddress
  else if widthAllowed .regs off 4 then
    if (readSpace .regs off s).1 &&& mask = v then .next (readSpace .regs off s).2
    else .next ((readSpace .regs off s).2.setHostOps (.poll off mask v :: s.hostOps))
  else .refused .accessWidth

/-- One host operation, already taken off the list. -/
def hostStep (op : HostOp) (s : State) : Host.Outcome State Fault Refusal :=
  match op with
  | .write sp off size v => hostWrite sp off size v s
  | .read sp off size => hostRead sp off size s
  | .busWrite addr size v =>
    match locate s.params addr with
    | some (sp, off) => hostWrite sp off size v s
    | none => .fault .noSuchAddress
  | .busRead addr size =>
    match locate s.params addr with
    | some (sp, off) => hostRead sp off size s
    | none => .fault .noSuchAddress
  | .poll off mask v => hostPoll off mask v s
  | .waitIrq => if s.irq then .next s else .next (s.setHostOps (.waitIrq :: s.hostOps))
  | .reset => .next (resetEngine s)
  | .powerUp => .next (powerCycle s)
  | .decode kind stream n => .next (s.setDecoder (Decoder.start kind stream n))

/-- `WR <REG>, v` (R112). -/
def HostOp.wr (r : Reg) (v : Word) : HostOp := .write .regs r.offset 4 v

/-- `RD <REG>` (R112). -/
def HostOp.rd (r : Reg) : HostOp := .read .regs r.offset 4

/-- `LOAD IMEM[a..] = bytes` (R112). -/
def HostOp.load (a : Nat) : List Byte → List HostOp
  | [] => []
  | b :: rest => .write .imem a 1 (b.setWidth 32) :: HostOp.load (a + 1) rest

/-- `DUMP OMEM[a..b)` (R112). -/
def HostOp.dump (a b : Nat) : List HostOp :=
  (List.range' a (b - a)).map fun x => .read .omem x 1

/-- `CMD <FIND|ENCODE>, MODE=m[, IE=1]` (R112): the CTRL write of a command's word. -/
def HostOp.cmd (i : Instr) : Option HostOp :=
  match Sys2Proof.encode i with
  | .ctrlWord w => some (.wr .ctrl w)
  | .stream _ => none

end Sys2Proof.Machine
end

