-- ==== Sys2Proof/Machine/Fetch.lean ====
section
/-! DEFINITION. What the next step does: which agent moves (70_reset_and_hazards.md R301), and the
instruction it fetches, if its move is one. The host fetches a command from a word it writes to
CTRL (30_encoding.md R108), the decoder an item from its stream (R105). -/

namespace Sys2Proof.Machine

/-- A step: an instruction to execute, or an outcome without one. -/
inductive Action where
  | run (i : Instr) (s : State)
  | outcome (o : Host.Outcome State Fault Refusal)

/-- The agent that moves when no turn is listed: the engine while BUSY (R301's fairness), then a
running decoder, then the host (log 5). -/
def defaultAgent (s : State) : Agent :=
  if s.status.busy then .engine
  else if s.decoder.running then .decoder
  else .host

/-- The agent whose turn it is. -/
def State.turn (s : State) : Agent :=
  match s.turns with
  | a :: _ => a
  | [] => defaultAgent s

/-- The word that a host operation writes to CTRL, if it is such a write. -/
def HostOp.ctrlWrite? (p : Params) (op : HostOp) : Option Word :=
  match op.resolve p with
  | some (.write .regs 0 4 v) => some v
  | _ => none

/-- The command that a host operation issues, if it writes one to CTRL. -/
def HostOp.command? (p : Params) (op : HostOp) : Option Instr :=
  match op.ctrlWrite? p with
  | none => none
  | some w =>
    match Sys2Proof.decode .ctrlWrite (.ctrlWord w) with
    | .ok (i, _) => some i
    | .error _ => none

/-- The host's move: its next operation, or none if its program has ended. -/
def hostAction (s : State) : Action :=
  match s.hostOps with
  | [] => .outcome (.next s)
  | op :: rest =>
    match op.command? s.params with
    | some i => .run i (s.setHostOps rest)
    | none => .outcome (hostStep op (s.setHostOps rest))

/-- The decoder's move. -/
def decoderAction (s : State) : Action :=
  match s.decoder.move with
  | .run i => .run i s
  | .rest d => .outcome (.next (s.setDecoder d))

/-- The move of an agent. -/
def agentAction (a : Agent) (s : State) : Action :=
  match a with
  | .host => hostAction s
  | .engine => .outcome (engineStep s)
  | .decoder => decoderAction s

/-- What the next step does; the turn it uses is gone. -/
def nextAction (s : State) : Action := agentAction s.turn (s.setTurns s.turns.tail)

/-! ## Placing one instruction where it is fetched next -/

/-- A decoder about to read `bytes` at this phase, with room for what it will write. -/
def Decoder.aim (d : Decoder) (bytes : List Byte) (kind : StreamKind) (phase : DecoderPhase) : Decoder :=
  { d with stream := bytes, idx := 0, kind := kind, phase := phase, expect := max d.expect (d.out.length + 1) }

/-- The state whose next step fetches the stream item `bytes`. -/
def aimDecoder (s : State) (bytes : List Byte) (kind : StreamKind) (phase : DecoderPhase) : State :=
  (s.setDecoder (s.decoder.aim bytes kind phase)).setTurns (.decoder :: s.turns)

/-- The state whose next step writes the word to CTRL. -/
def aimHost (s : State) (w : Word) : State :=
  (s.setHostOps (HostOp.wr .ctrl w :: s.hostOps)).setTurns (.host :: s.turns)

/-- The state with a table word placed at the place it is decoded at (`tablePlace`, log 12). -/
def placeTableWord (s : State) (nbits w : Nat) : State :=
  match tablePlace nbits, tableBits nbits w with
  | some .blockStart, .stream bytes => aimDecoder s bytes s.decoder.kind .blockStart
  | some (.slot _ kind), .stream bytes => aimDecoder s bytes kind (.slot (flagBit 0) 0)
  | some .ctrlWrite, .ctrlWord x => aimHost s x
  | _, _ => s

end Sys2Proof.Machine
end

