-- ==== Sys2Proof/Machine/Step.lean ====
section
/-! DEFINITION. One step of the machine: the next action, and the meaning of the instruction if it is
one. -/

namespace Sys2Proof.Machine

/-- One atomic step of one agent (20_memory.md R75, 70_reset_and_hazards.md R301). -/
def step (s : State) : Host.Outcome State Fault Refusal :=
  match nextAction s with
  | .run i t => exec i t
  | .outcome o => o

/-- `s` with a word of the opcode table placed where the next step fetches it (log 12). -/
def State.withFetchWord (s : State) (nbits w : Nat) : State := placeTableWord s nbits w

end Sys2Proof.Machine
end

