-- ==== Sys2Proof/Machine/Stream.lean ====
section
/-! DEFINITION. ENCODE's run as one function, EncodeAll (41_greedy_encoder.md R181). The engine's steps
are the machine's meaning; this is the clear function that statements compare them with. -/

namespace Sys2Proof.Machine

/-- The local variables of EncodeAll (R181). `blocks` counts flag bytes and
`fillers` the fillers, as R182 and R183 speak of them. -/
structure EncodeVars where
  cur    : Nat
  out    : List Byte
  spDec  : Nat
  spEnc  : Nat
  best   : Nat
  peak   : Nat
  flags  : Byte
  blocks : Nat
  fillers : Nat
  deriving DecidableEq, Repr

/-- The trace update after a chunk (R177). -/
def EncodeVars.trace (e : EncodeVars) : EncodeVars :=
  if newPeak e.cur e.out.length e.best then
    { e with best := (savings e.cur e.out.length).toNat, peak := e.cur, spDec := 0, spEnc := 0 }
  else e

/-- Slot `i` of a block (R181's inner loop body). -/
def encodeSlot (rd : Nat → Byte) (P : Preset) (n i : Nat) (e : EncodeVars) : EncodeVars :=
  if e.cur < n then
    let r := findLongestMatch rd P n e.cur
    if 2 < r.recLen then
      { e with
        out := e.out ++ refBytes r.recLen (e.cur - r.recPos - P.posSubtract)
        flags := e.flags ||| flagBit i
        cur := e.cur + r.recLen
        spDec := e.spDec + r.recLen
        spEnc := e.spEnc + 2 }.trace
    else
      { e with
        out := e.out ++ [rd e.cur]
        cur := e.cur + 1
        spDec := e.spDec + 1
        spEnc := e.spEnc + 1 }.trace
  else if P.zeroFill then { e with out := e.out ++ [0], fillers := e.fillers + 1 }
  else e

/-- Slots `i` to 7, `left` of them. -/
def encodeSlots (rd : Nat → Byte) (P : Preset) (n : Nat) : (left i : Nat) → EncodeVars → EncodeVars
  | 0, _, e => e
  | k + 1, i, e => encodeSlots rd P n k (i + 1) (encodeSlot rd P n i e)

/-- One block: placeholder, eight slots, then the flag byte (R181's outer loop body). -/
def encodeBlock (rd : Nat → Byte) (P : Preset) (n : Nat) (e : EncodeVars) : EncodeVars :=
  let e1 := encodeSlots rd P n 8 0
    { e with out := e.out ++ [0], spEnc := e.spEnc + 1, flags := 0, blocks := e.blocks + 1 }
  { e1 with out := e1.out.set e.out.length e1.flags }

/-- `while c < N`, with fuel for as many blocks as there are input bytes. -/
def encodeBlocks (rd : Nat → Byte) (P : Preset) (n : Nat) : (fuel : Nat) → EncodeVars → EncodeVars
  | 0, e => e
  | k + 1, e => if e.cur < n then encodeBlocks rd P n k (encodeBlock rd P n e) else e

/-- The variables at the start (R171). -/
def EncodeVars.init : EncodeVars :=
  { cur := 0, out := [], spDec := 0, spEnc := 0, best := 0, peak := 0, flags := 0, blocks := 0,
    fillers := 0 }

/-- `EncodeAll(N, P)` (R181). -/
def encodeAll (rd : Nat → Byte) (P : Preset) (n : Nat) : EncodeVars :=
  encodeBlocks rd P n n EncodeVars.init

end Sys2Proof.Machine
end

