-- ==== Sys2Proof/Machine/Framing.lean ====
section
/-! DEFINITION. The host's codecs around the engine (45_host_framing.md), as functions of byte lists.
They are outside the block (00_scope.md R4): no step of the machine calls them. They say what the
engine's results are for. -/

namespace Sys2Proof.Machine

/-- Why a codec fails: one of the four error kinds (60_exceptions.md R270), or a violated caller contract
(R244). -/
inductive HostError where
  | decode (e : DecodeError)
  | callerContract
  deriving DecidableEq, Repr

/-! ## The engine as the host uses it -/

/-- IMEM[a] when `d` has been loaded from address 0. -/
def byteAt (d : List Byte) (a : Nat) : Byte := d.getD a 0

/-- An ENCODE of `d` under a preset. DESIGN CHOICE (log 32): the block's memories are taken to be large
enough, so no START is refused for its sizes. -/
def encodeBytes (P : Preset) (d : List Byte) : EncodeVars := encodeAll (byteAt d) P d.length

/-- The most input bytes that SRC_LEN can name (R241, 00_scope.md R8). -/
def maxInput : Nat := 2 ^ 24 - 1

/-! ## Byte layouts -/

/-- `k` bytes of a number, low byte first (20_memory.md R72). -/
def leBytes : (k : Nat) → Nat → List Byte
  | 0, _ => []
  | k + 1, v => BitVec.ofNat 8 v :: leBytes k (v / 256)

/-- The number of a byte list, low byte first. -/
def leNat : List Byte → Nat
  | [] => 0
  | b :: rest => b.toNat + 256 * leNat rest

/-- `n` rounded up to a multiple of 4 (R244). -/
def roundUp4 (n : Nat) : Nat := (n + 3) / 4 * 4

/-! ## Block codec -/

/-- `header(n)`: `tag | (n << 8)`, little-endian (R241). -/
def blockHeader (h : HostParams) (n : Nat) : List Byte := h.blockTag :: leBytes 3 n

/-- `compressBlock(b)` (R242); N must fit the header (R241). -/
def compressBlock (h : HostParams) (b : List Byte) : Except HostError (List Byte) :=
  if maxInput < b.length then .error .callerContract
  else .ok (blockHeader h b.length ++ (encodeBytes Preset.block b).out)

/-- A decoder's answer as a codec's. -/
def hostResult (r : Except DecodeError (List Byte)) : Except HostError (List Byte) :=
  match r with
  | .ok out => .ok out
  | .error e => .error (.decode e)

/-- `decompressBlock(x)` (R243). -/
def decompressBlock (h : HostParams) (x : List Byte) : Except HostError (List Byte) :=
  if x.length < 4 then .error (.decode .truncatedInput)
  else if x.getD 0 0 ≠ h.blockTag then .error (.decode .badMagic)
  else hostResult (blockDecode (x.drop 4) (leNat ((x.drop 1).take 3)))

/-! ## Image codec -/

/-- The length of the uncompressed prefix of a main image (R244 step 1). -/
def mainPrefix : Nat := 0x4000

/-- What the host keeps of an IMAGE run over the reversed remainder (R245): the passthrough, and
S', the stream up to the savings peak. -/
structure Trimmed where
  passthrough : List Byte
  stream      : List Byte
  deriving DecidableEq, Repr

/-- The run and the trim (R240, R245). -/
def trimImage (rem : List Byte) : Trimmed :=
  let e := encodeBytes Preset.image rem.reverse
  { passthrough := rem.take e.spDec, stream := e.out.take (e.out.length - e.spEnc) }

/-- The container body, in original byte order (R245). -/
def Trimmed.body (t : Trimmed) : List Byte := t.passthrough ++ t.stream.reverse

/-- The length that the 0xFF padding aligns (R244 step 3). -/
def padBase (basis : PadBasis) (t : Trimmed) : Nat :=
  match basis with
  | .stream => t.stream.length
  | .container => t.body.length

/-- The number of padding bytes (R244 step 3). -/
def padCount (basis : PadBasis) (t : Trimmed) : Nat := roundUp4 (padBase basis t) - padBase basis t

/-- headerLength: the padding and the 8-byte footer (R244 step 3). -/
def headerLength (basis : PadBasis) (t : Trimmed) : Nat := padCount basis t + 8

/-- extraSize as stored: two's complement, so a negative value wraps (R246, D31). -/
def extraSizeWord (basis : PadBasis) (t : Trimmed) (remLen : Nat) : Word :=
  BitVec.ofInt 32 ((remLen : Int) - t.body.length - headerLength basis t)

/-- The footer (R244 step 4, R246): compressedLength and headerLength, then extraSize.
DESIGN CHOICE (log 30): of a compressedLength of 2^24 or more the low 24 bits are stored. -/
def imageFooter (basis : PadBasis) (t : Trimmed) (remLen : Nat) : List Byte :=
  leBytes 3 (t.stream.length + headerLength basis t) ++ leBytes 1 (headerLength basis t) ++
    leBytes 4 (extraSizeWord basis t remLen).toNat

/-- The compressed container of a remainder (R244 steps 3 and 4, R246). -/
def imageContainer (basis : PadBasis) (t : Trimmed) (remLen : Nat) : List Byte :=
  t.body ++ List.replicate (padCount basis t) 0xFF ++ imageFooter basis t remLen

/-- Step 5: the container is no smaller than the raw form allows (R244). -/
def takesFallback (basis : PadBasis) (t : Trimmed) (remLen : Nat) : Bool :=
  roundUp4 remLen + 8 ≤ t.body.length + headerLength basis t

/-- The raw fallback (R244 step 5). -/
def rawContainer (h : HostParams) (rem : List Byte) : List Byte :=
  rem ++ List.replicate (roundUp4 rem.length - rem.length) h.fallbackPad ++ [0, 0, 0, 0]

/-- Steps 2 to 5 on the remainder (R244). -/
def compressRemainder (h : HostParams) (rem : List Byte) : List Byte :=
  let t := trimImage rem
  if takesFallback h.padBasis t rem.length then rawContainer h rem
  else imageContainer h.padBasis t rem.length

/-- `compressImage(data, isMain)` (R244). A remainder that SRC_LEN cannot name is a violated contract
(log 23). -/
def compressImage (h : HostParams) (data : List Byte) (isMain : Bool) : Except HostError (List Byte) :=
  let k := if isMain then mainPrefix else 0
  if data.length < k then .error .callerContract
  else if maxInput < (data.drop k).length then .error .callerContract
  else .ok (data.take k ++ compressRemainder h (data.drop k))

/-- compressedLength of a container that ends `data` (R246). -/
def footerCompressed (data : List Byte) : Nat := leNat ((data.drop (data.length - 8)).take 3)

/-- headerLength of a container that ends `data` (R246). -/
def footerHeader (data : List Byte) : Nat := leNat ((data.drop (data.length - 5)).take 1)

/-- extraSize, read back signed (R246). -/
def footerExtra (data : List Byte) : Int :=
  (BitVec.ofNat 32 (leNat (data.drop (data.length - 4)))).toInt

/-- Step 1's test of one candidate (R247; the padding is checked later, 90_conflicts.md C9).
DESIGN CHOICE (log 31): with fewer than 8 bytes left there is no footer, so the candidate is not accepted. -/
def footerAccepted (data : List Byte) : Bool :=
  8 ≤ data.length && 8 ≤ footerHeader data && footerCompressed data ≤ data.length

/-- Step 1: the number of appended bytes, 0, 4, … 0x1C, if a footer is found before them (R247). -/
def appendedLength (x : List Byte) : Option Nat :=
  [0, 4, 8, 12, 16, 20, 24, 28].find? fun k => k ≤ x.length && footerAccepted (x.take (x.length - k))

/-- Step 4's padding bytes (R247). -/
def paddingBytes (data : List Byte) : List Byte :=
  (data.drop (data.length - footerHeader data)).take (footerHeader data - 8)

/-- Steps 4 to 6, on what is left after step 2 (R247). A negative N' is taken as 0 (log 22). -/
def decodeContainer (clamp : ClampMode) (data : List Byte) : Except HostError (List Byte) :=
  let hl := footerHeader data
  let cl := footerCompressed data
  if data.length < hl then .error (.decode .truncatedInput)
  else if data.length < cl ∨ hl < 8 ∨ (paddingBytes data).any (· != 0xFF) then
    .error (.decode .invalidHeader)
  else
    let pass := data.length - min cl data.length
    let n := ((data.length : Int) + footerExtra data - pass).toNat
    match imageDecode clamp ((data.drop pass).take (cl - hl)).reverse n with
    | .error e => .error (.decode e)
    | .ok out => .ok (data.take pass ++ out.reverse)

/-- `decompressImage(x)` (R247). -/
def decompressImage (h : HostParams) (x : List Byte) : Except HostError (List Byte) :=
  match appendedLength x with
  | none => .ok x
  | some k =>
    let data := x.take (x.length - k)
    if data.drop (data.length - 4) = [0, 0, 0, 0] then .ok x
    else
      match decodeContainer h.imageClamp data with
      | .error e => .error e
      | .ok out => .ok (out ++ x.drop (x.length - k))

end Sys2Proof.Machine
end

