-- ==== Sys2Proof/Safety.lean ====
section
/-! DEFINITION. What the statements about runs are said in: the conditions under which a command is
accepted, the invariant that every step keeps, and what a read of memory sees. -/

namespace Sys2Proof.Machine

/-! ## When a command is accepted (60_exceptions.md R262) -/

/-- A FIND with this MODE passes the START checks in this state, and `P` is its preset. -/
structure FindReady (mode : BitVec 2) (P : Preset) (s : State) : Prop where
  idle      : s.status.busy = false
  preset    : presetOf mode = some P
  srcFits   : s.srcLen.toNat ≤ s.params.imemSize
  cursorIn  : s.cursor.toNat < s.srcLen.toNat

/-- An ENCODE with this MODE passes the START checks in this state, and `P` is its preset. -/
structure EncodeReady (mode : BitVec 2) (P : Preset) (s : State) : Prop where
  idle      : s.status.busy = false
  preset    : presetOf mode = some P
  srcFits   : s.srcLen.toNat ≤ s.params.imemSize
  outFits   : outBound P s.srcLen.toNat ≤ s.params.omemSize

/-! ## The invariant -/

/-- The sizes that 00_scope.md R8 allows. -/
abbrev paramsLegal (p : Params) : Prop :=
  1 ≤ p.imemSize ∧ p.imemSize ≤ 2 ^ 24 ∧ 1 ≤ p.omemSize ∧ p.omemSize ≤ 2 ^ 25

/-- Every listed address exists. -/
abbrev Memory.within (m : Memory) (size : Nat) : Prop := ∀ x ∈ m, x.1 < size

/-- What holds throughout an ENCODE run (41_greedy_encoder.md R183): the START checks still hold, and
the counters stay within the input and the output. -/
structure EncodeRoom (P : Preset) (s : State) : Prop where
  op       : s.ctrl.op = opEncode
  preset   : s.preset = some P
  srcFits  : s.srcLen.toNat ≤ s.params.imemSize
  outFits  : outBound P s.srcLen.toNat ≤ s.params.omemSize
  cursorIn : s.cursor.toNat ≤ s.srcLen.toNat
  spDecIn  : s.spDec.toNat ≤ s.cursor.toNat
  spEncIn  : s.spEnc.toNat ≤ s.outLen.toNat
  bestIn   : s.bestSavings.toNat ≤ s.cursor.toNat
  peakIn   : s.peakCursor.toNat ≤ s.cursor.toNat

/-- The output so far, between blocks: at most one flag byte for every eight input bytes, and the
whole bound once the input is exhausted (R183). -/
def BoundaryBound (P : Preset) (s : State) : Prop :=
  if s.cursor.toNat < s.srcLen.toNat then s.outLen.toNat ≤ s.cursor.toNat + s.cursor.toNat / 8
  else s.outLen.toNat ≤ outBound P s.srcLen.toNat

/-- The output so far inside a block, before slot CHUNK_IDX: every slot so far used input, or was a
filler (R183). -/
def InBlockBound (P : Preset) (s : State) : Prop :=
  if s.cursor.toNat < s.srcLen.toNat then
    s.chunkIdx.val ≤ s.cursor.toNat ∧
      s.outLen.toNat ≤ s.cursor.toNat + (s.cursor.toNat - s.chunkIdx.val) / 8 + 1
  else
    1 ≤ s.chunkIdx.val ∧
      s.outLen.toNat ≤ s.srcLen.toNat + ceilEighth s.srcLen.toNat +
        (if P.zeroFill then s.chunkIdx.val - 1 else 0)

/-- What a running command's phase says of the registers. -/
def State.RunInv (s : State) : Prop :=
  match s.phase with
  | .idle => True
  | .findRun => s.ctrl.op = opFind ∧ s.preset.isSome = true ∧ s.srcLen.toNat ≤ s.params.imemSize ∧
      s.cursor.toNat < s.srcLen.toNat
  | .encBlock => ∃ P, EncodeRoom P s ∧ BoundaryBound P s
  | .encChunk => ∃ P, EncodeRoom P s ∧ InBlockBound P s ∧ s.flagPtr.toNat < s.outLen.toNat
  | .encFlush => ∃ P, EncodeRoom P s ∧ BoundaryBound P s ∧ s.flagPtr.toNat < s.outLen.toNat

/-- The invariant of the machine. -/
structure State.Inv (s : State) : Prop where
  /-- R8. -/
  params     : paramsLegal s.params
  /-- The memories keep their canonical form, inside their sizes. -/
  imemWf     : s.imem.wf
  omemWf     : s.omem.wf
  imemIn     : s.imem.within s.params.imemSize
  omemIn     : s.omem.within s.params.omemSize
  /-- `STATUS.BUSY = 1 exactly when PHASE ≠ IDLE` (10_state.md R43). -/
  busyPhase  : s.status.busy = true ↔ s.phase ≠ .idle
  /-- While BUSY, the accepted START's STATUS stands (10_state.md R33, 60_exceptions.md R264). -/
  busyClean  : s.status.busy = true → s.status = Status.accepted
  /-- ERRCODE 6 to 15 never occur (60_exceptions.md R261). -/
  codeLegal  : s.status.errcode.toNat ≤ 5
  /-- MATCH_LEN is 0 to 18 (10_state.md R36). -/
  matchLenIn : s.matchLen.toNat ≤ 18
  /-- The decoder never writes past N (70_reset_and_hazards.md R300). -/
  decoderIn  : s.decoder.out.length ≤ s.decoder.expect
  /-- The running command. -/
  run        : s.RunInv

/-! ## Frames -/

/-- Every byte of both memories reads the same. -/
def SameBytes (s t : State) : Prop :=
  (∀ a, t.imemByte a = s.imemByte a) ∧ (∀ a, t.omemByte a = s.omemByte a)

/-- Everything but the engine's own registers is the same: the host's side, the decoder, the input, and
the parameters. -/
def SameOutsideEngine (s t : State) : Prop :=
  t.ctrl = s.ctrl ∧ t.srcLen = s.srcLen ∧ t.imem = s.imem ∧ t.decoder = s.decoder ∧
    t.params = s.params ∧ t.powerUp = s.powerUp ∧ t.freeCtr = s.freeCtr ∧ t.hostOps = s.hostOps ∧
    t.hostSeen = s.hostSeen ∧ t.turns = s.turns

/-- The register results of an ENCODE are those of EncodeAll (41_greedy_encoder.md R181), with STATUS
as R264 leaves it. -/
structure HoldsResults (e : EncodeVars) (u : State) : Prop where
  status      : u.status = { busy := false, done := true, err := false, errcode := 0 }
  phase       : u.phase = .idle
  cursor      : u.cursor.toNat = e.cur
  outLen      : u.outLen.toNat = e.out.length
  spDec       : u.spDec.toNat = e.spDec
  spEnc       : u.spEnc.toNat = e.spEnc
  bestSavings : u.bestSavings.toNat = e.best
  peakCursor  : u.peakCursor.toNat = e.peak
  stream      : u.encodedStream = e.out

/-- The trace registers after a chunk that took CURSOR to `c` and OUT_LEN to `o`, `consumed` input bytes
into `emitted` stream bytes (41_greedy_encoder.md R177). -/
def TraceAfter (consumed emitted : Nat) (s t : State) : Prop :=
  let c := s.cursor.toNat + consumed
  let o := s.outLen.toNat + emitted
  if (s.bestSavings.toNat : Int) < (c : Int) - (o : Int) then
    (t.bestSavings.toNat : Int) = (c : Int) - (o : Int) ∧ t.peakCursor.toNat = c ∧
      t.spDec = 0 ∧ t.spEnc = 0
  else
    t.bestSavings = s.bestSavings ∧ t.peakCursor = s.peakCursor ∧
      t.spDec.toNat = s.spDec.toNat + consumed ∧ t.spEnc.toNat = s.spEnc.toNat + emitted

/-- The chunk index moves on, and the flush follows the eighth slot (R178). -/
def IndexAfter (s t : State) : Prop :=
  if s.chunkIdx.val = 7 then t.phase = .encFlush ∧ t.chunkIdx = s.chunkIdx
  else t.phase = .encChunk ∧ t.chunkIdx.val = s.chunkIdx.val + 1

/-! ## The reference decoder -/

/-- Where a decoder stands after the chunk of slot `b` of a block with flag byte `f`: stopped as soon as
`|out| = N`, else at the next slot, or at the next block after the eighth (42_chunk_semantics.md R210,
R215). -/
def SlotAfter (f : Byte) (b : Fin 8) (d : Decoder) : Prop :=
  if d.expect ≤ d.out.length then d.phase = .done
  else if b.val = 7 then d.phase = .blockStart
  else ∃ c : Fin 8, c.val = b.val + 1 ∧ d.phase = .slot f c

/-- The decoder's stream, kind and expected length are the same, and `n` more bytes have been read. -/
def SameStream (n : Nat) (d e : Decoder) : Prop :=
  e.kind = d.kind ∧ e.stream = d.stream ∧ e.expect = d.expect ∧ e.idx = d.idx + n

/-- The decoder has stopped if its output is complete, and else it stands where it stood: after a chunk
executed where no slot is next (log 19). -/
def PhaseStaysUntilFull (d e : Decoder) : Prop :=
  e.phase = if d.expect ≤ e.out.length then .done else d.phase

/-- The step stops the decoder with TruncatedInput, its output as it was (42_chunk_semantics.md R211, R212,
R215, R216). -/
def StepTruncates (s : State) : Prop :=
  ∃ t : State, step s = .next t ∧ t.decoder.result = some (.error .truncatedInput) ∧
    t.decoder.out = s.decoder.out

/-- `new` is `old` and then `count` bytes, cut at `limit`, each equal to the byte `dist` before it
(42_chunk_semantics.md R212, R215). -/
structure CopiesFrom (dist count limit : Nat) (old new : List Byte) : Prop where
  keeps   : ∀ k, k < old.length → new[k]? = old[k]?
  length  : new.length = min limit (old.length + count)
  repeats : ∀ k, old.length ≤ k → k < new.length → new[k]? = new[k - dist]?

end Sys2Proof.Machine
end

