-- ==== Sys2Proof/Certificates/Slice0/Obligations.lean ====
section
/-! DEFINITION. The statements for the provers. Each is about every state, or about every state that
meets the invariant of Safety.lean where its docstring says so. -/

open Sys2Proof Sys2Proof.Machine

/-! ## Reset (70_reset_and_hazards.md) -/

/-- R293, R290, R292: the reset input, in any state, leaves every register at R290's value and the engine
idle with nothing more to do, and keeps every byte of both memories. -/
def Obligations.ResetInputAbandonsCommandKeepsMemories : Prop :=
  ∀ s : State, ∃ t, hostStep .reset s = .next t ∧
    t.phase = .idle ∧ t.status.busy = false ∧ engineStep t = .next t ∧
    (∀ r : Reg, regWord r t = if r = .param then 0x10000129#32 else 0#32) ∧
    t.irq = false ∧ t.flagPtr = 0 ∧ t.flagAcc = 0 ∧ t.chunkIdx = 0 ∧
    SameBytes s t

/-- R290, R291: power-up is a reset: R290's table, R291's internal state, and reserved offsets read 0. The
memories list no written byte (log 2: what they read as is free). -/
def Obligations.PowerUpLeavesResetValues : Prop :=
  ∀ t : State, (t = State.reset ∨ ∃ s, hostStep .powerUp s = .next t) →
    (∀ r : Reg, readReg r t = (if r = .param then 0x10000129#32 else 0#32, t)) ∧
    (∀ off, Reg.ofOffset off = none → readSpace .regs off t = (0#32, t)) ∧
    t.irq = false ∧ t.phase = .idle ∧ t.flagPtr = 0 ∧ t.flagAcc = 0 ∧ t.chunkIdx = 0 ∧
    t.imem = [] ∧ t.omem = []

/-- The invariant of Safety.lean holds after reset. -/
def Obligations.ResetMeetsInvariant : Prop := State.reset.Inv

/-- Every step of every agent keeps the invariant: the memories' canonical form and bounds, BUSY exactly
when PHASE is not IDLE (R43), the frozen START checks and R183's bounds of a running ENCODE, and the
decoder's output bound (R300). -/
def Obligations.StepKeepsInvariant : Prop :=
  ∀ s t : State, s.Inv → step s = .next t → t.Inv

/-! ## Encodings (30_encoding.md) -/

/-- Decoding an encoded well-formed instruction gives it back, with whatever follows it in the stream left
over; a LIT is the same in streams of both kinds. -/
def Obligations.DecodeOfEncodeIsTheInstruction : Prop :=
  ∀ i : Instr, i.wellFormed = true →
    (∀ w, encode i = .ctrlWord w → decode .ctrlWrite (.ctrlWord w) = .ok (i, [])) ∧
    (∀ bs rest, encode i = .stream bs → decode i.place (.stream (bs ++ rest)) = .ok (i, rest)) ∧
    (∀ b kind rest, i = .lit b → decode (.slot false kind) (.stream (b :: rest)) = .ok (i, rest))

/-- R110's first sentence: every flag value, literal value and REF field has a meaning, and encoding that
meaning gives the same bytes. -/
def Obligations.EveryStreamPatternHasItsOwnMeaning : Prop :=
  (∀ f rest, decode .blockStart (.stream (f :: rest)) = .ok (.flag f, rest) ∧
    encode (.flag f) = .stream [f]) ∧
  (∀ b kind rest, decode (.slot false kind) (.stream (b :: rest)) = .ok (.lit b, rest) ∧
    encode (.lit b) = .stream [b]) ∧
  (∀ b0 b1 kind rest, ∃ i, decode (.slot true kind) (.stream (b0 :: b1 :: rest)) = .ok (i, rest) ∧
    i.wellFormed = true ∧ encode i = .stream [b0, b1])

/-- The words of R102, R104, R107 and R108's examples, written out from their fields, decode to the
instructions they stand for, and the reserved ones of R109 are rejected by name. -/
def Obligations.ExampleWordsOfTheSpecDecode : Prop :=
  decode .blockStart (.stream [0b00011100#8]) = .ok (.flag 0x1C, []) ∧
  decode (.slot false .block) (.stream [0b01100001#8]) = .ok (.lit 0x61, []) ∧
  decode (.slot true .block) (.stream [0b00110000#8, 0b00000101#8]) = .ok (.refB 6 6, []) ∧
  decode (.slot true .image) (.stream [0b00110000#8, 0b00000011#8]) = .ok (.refI 6 6, []) ∧
  decode (.slot true .block) (.stream [0b11110000#8, 0b00010111#8]) = .ok (.refB 18 24, []) ∧
  decode .ctrlWrite (.ctrlWord 0b00000000000000000000000000000101#32) = .ok (.encode 0 false, []) ∧
  decode .ctrlWrite (.ctrlWord 0b00000000000000000000000100010101#32) = .ok (.encode 1 true, []) ∧
  decode .ctrlWrite (.ctrlWord 0b00000000000000000000000000000011#32) = .ok (.find 0 false, []) ∧
  decode .ctrlWrite (.ctrlWord 0b00000000000000000000000000000111#32) = .error .reservedOp ∧
  decode .ctrlWrite (.ctrlWord 0b00000000000000000000000000000001#32) = .error .reservedOp ∧
  decode .ctrlWrite (.ctrlWord 0b00000000000000000000000000000100#32) = .error .notACommand

/-- R101: bit 7 - i of a block's flag byte says whether slot i holds a back-reference, and is 0 for a slot
that the block lacks. -/
def Obligations.FlagByteBitsNameTheReferences : Prop :=
  ∀ (chunks : List Instr) (i : Nat), chunks.length ≤ 8 → i < 8 →
    (flagByteOf chunks).getLsbD (7 - i) = ((chunks[i]?).map Instr.isRef).getD false

/-- R111: a back-reference with an operand that no encoding has is refused by name. -/
def Obligations.OperandsWithoutEncodingAreRefused : Prop :=
  ∀ (len dist : Nat) (s : State),
    ((len < 3 ∨ 18 < len ∨ dist < 1 ∨ 4096 < dist) →
      exec (.refB len dist) s = .refused .operandOutOfRange) ∧
    ((len < 3 ∨ 18 < len ∨ dist < 3 ∨ 4098 < dist) →
      exec (.refI len dist) s = .refused .operandOutOfRange)

/-! ## A step runs what it fetches -/

/-- A host write of a command's word to CTRL, by offset or by bus address, runs that command, with the
turn and the operation used up. -/
def Obligations.StepRunsTheCommandWritten : Prop :=
  ∀ (s : State) (op : HostOp) (ops : List HostOp) (w : Word) (i : Instr) (rest : List Byte),
    s.turn = .host → s.hostOps = op :: ops →
    (op = .write .regs 0 4 w ∨ ∃ addr, op = .busWrite addr 4 w ∧ locate s.params addr = some (.regs, 0)) →
    decode .ctrlWrite (.ctrlWord w) = .ok (i, rest) →
    i.wellFormed = true ∧ step s = exec i ((s.setTurns s.turns.tail).setHostOps ops)

/-- A running decoder with output still to come runs the item at its read index, with the turn used up. -/
def Obligations.StepRunsTheItemInTheStream : Prop :=
  ∀ (s : State) (place : DecodePlace) (i : Instr) (rest : List Byte),
    s.turn = .decoder → s.decoder.place = some place → s.decoder.out.length < s.decoder.expect →
    decode place (.stream (s.decoder.stream.drop s.decoder.idx)) = .ok (i, rest) →
    i.wellFormed = true ∧ step s = exec i (s.setTurns s.turns.tail)

/-- Every CTRL write, a command or not, by offset or by bus address, is one host step whose effect is that of
the register write
(R260); executing a command is writing its word. -/
def Obligations.CtrlWriteStepIsTheRegisterWrite : Prop :=
  (∀ (s : State) (op : HostOp) (ops : List HostOp) (w : Word), s.turn = .host → s.hostOps = op :: ops →
    (op = .write .regs 0 4 w ∨ ∃ addr, op = .busWrite addr 4 w ∧ locate s.params addr = some (.regs, 0)) →
    step s = .next (writeReg .ctrl w ((s.setTurns s.turns.tail).setHostOps ops))) ∧
  (∀ (i : Instr) (w : Word) (s : State), encode i = .ctrlWord w → exec i s = .next (writeReg .ctrl w s))

/-- R301's fairness as the model has it (log 5, the model's choice): with no turn listed, the engine moves
while BUSY = 1. -/
def Obligations.EngineMovesWhileBusyByDefault : Prop :=
  ∀ s : State, s.turns = [] → s.status.busy = true → step s = engineStep s

/-! ## Registers (10_state.md) -/

/-- R40: PARAM's fields and values for each MODE. -/
def Obligations.ParamShowsTheSelectedPreset : Prop :=
  (∀ s : State, regWord .param s =
    if s.ctrl.mode = 0 then 0x10000129#32 else if s.ctrl.mode = 1 then 0x10020127#32 else 0#32) ∧
  (∀ (s : State) (P : Preset), presetOf s.ctrl.mode = some P →
    ((regWord .param s).extractLsb' 0 2).toNat = P.posSubtract ∧
    (regWord .param s).getLsbD 2 = P.searchReverse ∧
    (regWord .param s).getLsbD 3 = P.zeroFill ∧
    ((regWord .param s).extractLsb' 4 5).toNat = P.maxMatchLength ∧
    ((regWord .param s).extractLsb' 16 13).toNat = P.maxMatchDiff) ∧
  regWord .param State.reset = 0x10000129#32

/-- R42: IRQ is DONE AND IE. It takes the level of IE when a command finishes, and it is low after the host
clears DONE or IE, and after an accepted START. -/
def Obligations.IrqFollowsDoneAndEnable : Prop :=
  (∀ s : State, s.irq = true ↔ s.status.done = true ∧ s.ctrl.ie = true) ∧
  (∀ s t : State, s.status.busy = true → engineStep s = .next t → t.status.busy = false → t.irq = s.ctrl.ie) ∧
  (∀ (s : State) (w : Word), s.status.busy = false → w.getLsbD 1 = true → (writeReg .status w s).irq = false) ∧
  (∀ (s : State) (w : Word), s.status.busy = false → w.getLsbD 0 = false → w.getLsbD 8 = false →
    (writeReg .ctrl w s).irq = false) ∧
  (∀ (s : State) (w : Word), (writeReg .ctrl w s).status.busy = true → s.status.busy = false →
    (writeReg .ctrl w s).irq = false)

/-- R33, R265: a write to STATUS while idle clears DONE and ERR where it writes 1, and changes nothing else;
a CTRL write with START = 0 stores OP, MODE and IE and changes nothing else (R260). -/
def Obligations.IdleControlWritesStoreAndClear : Prop :=
  ∀ (s : State) (w : Word), s.status.busy = false →
    hostWrite .regs 0x04 4 w s = .next { s with status := {
      busy := false
      done := if w.getLsbD 1 then false else s.status.done
      err := if w.getLsbD 2 then false else s.status.err
      errcode := s.status.errcode } } ∧
    (w.getLsbD 0 = false →
      hostWrite .regs 0x00 4 w s = .next { s with ctrl := {
        op := w.extractLsb' 1 2, mode := w.extractLsb' 4 2, ie := w.getLsbD 8 } })

/-- R34, R35: SRC_LEN and CURSOR keep bits 23:0 of a word written while idle, read it back, and no other
state changes. -/
def Obligations.PositionRegistersKeepTwentyFourBits : Prop :=
  ∀ (s : State) (w : Word), s.status.busy = false →
    (∃ t, hostWrite .regs 0x08 4 w s = .next t ∧ readReg .srcLen t = (w &&& 0xFFFFFF#32, t) ∧
      t = { s with srcLen := t.srcLen }) ∧
    (∃ t, hostWrite .regs 0x0C 4 w s = .next t ∧ readReg .cursor t = (w &&& 0xFFFFFF#32, t) ∧
      t = { s with cursor := t.cursor })

/-- R30: every bit that no register's table names reads as 0, in every state, and so does every reserved
offset. -/
def Obligations.ReservedBitsAndOffsetsReadZero : Prop :=
  (∀ (r : Reg) (s : State), (readReg r s).1.toNat < 2 ^ r.width) ∧
  (∀ s : State, (readReg .ctrl s).1 &&& 0xFFFFFEC9#32 = 0#32) ∧
  (∀ s : State, (readReg .status s).1 &&& 0xFFFFFF08#32 = 0#32) ∧
  (∀ s : State, (readReg .param s).1 &&& 0xE000FE00#32 = 0#32) ∧
  (∀ (s : State) (off : Nat), Reg.ofOffset off = none → readSpace .regs off s = (0#32, s))

/-- R297: while BUSY, host writes to CTRL, SRC_LEN, CURSOR and STATUS change nothing, a second START
included, so N, P and c are frozen; writes to the read-only registers and to reserved offsets change
nothing at any time. -/
def Obligations.WritesWhileBusyAndToReadOnlyAreIgnored : Prop :=
  (∀ (s : State) (off : Nat) (w : Word), s.status.busy = true → off < 0x100 → off % 4 = 0 →
    hostWrite .regs off 4 w s = .next s) ∧
  (∀ (s : State) (mode : BitVec 2) (ie : Bool), s.status.busy = true →
    exec (.find mode ie) s = .next s ∧ exec (.encode mode ie) s = .next s) ∧
  (∀ (s : State) (off : Nat) (w : Word), 0x10 ≤ off → off < 0x100 → off % 4 = 0 →
    hostWrite .regs off 4 w s = .next s)

/-! ## START (60_exceptions.md) -/

/-- R262, R263: with START = 1 written while idle, the first cause in R262's order decides, and a refused
START changes STATUS alone (beside the CTRL fields just written); with no cause the command runs. -/
def Obligations.StartReportsTheFirstCause : Prop :=
  ∀ (s : State) (w : Word), s.status.busy = false → w.getLsbD 0 = true →
    let op := w.extractLsb' 1 2
    let mode := w.extractLsb' 4 2
    let n := s.srcLen.toNat
    let room := n + (n + 7) / 8 + (if mode = 0 then 7 else 0)
    let refused (code : BitVec 4) : State := { s with
      ctrl := { op := op, mode := mode, ie := w.getLsbD 8 }
      status := { busy := false, done := true, err := true, errcode := code } }
    let t := writeReg .ctrl w s
    if op = 0 ∨ op = 3 then t = refused 1
    else if mode = 2 ∨ mode = 3 then t = refused 2
    else if s.params.imemSize < n then t = refused 3
    else if op = 1 ∧ n ≤ s.cursor.toNat then t = refused 4
    else if op = 2 ∧ s.params.omemSize < room then t = refused 5
    else t.status = { busy := true, done := false, err := false, errcode := 0 } ∧
      t.phase = (if op = 1 then .findRun else .encBlock)

/-- R149's Start and Step: an accepted FIND, then its one engine step, is exactly this; the search registers
may hold anything after it (R45). -/
def Obligations.FindStartsAndCompletesInOneStep : Prop :=
  ∀ (mode : BitVec 2) (ie : Bool) (P : Preset) (s : State), FindReady mode P s →
    let r := findLongestMatch s.imemByte P s.srcLen.toNat s.cursor.toNat
    let t : State := { s with
      ctrl := { op := 1, mode := mode, ie := ie }
      status := { busy := true, done := false, err := false, errcode := 0 }
      phase := .findRun }
    exec (.find mode ie) s = .next t ∧
    ∃ u : State, engineStep t = .next u ∧ u = { t with
      search := u.search
      matchPos := BitVec.ofNat 24 r.recPos
      matchLen := BitVec.ofNat 5 r.recLen
      status := { busy := false, done := true, err := false, errcode := 0 }
      phase := .idle }

/-- R171: an accepted ENCODE writes exactly this in its START step. -/
def Obligations.EncodeStartInitialises : Prop :=
  ∀ (mode : BitVec 2) (ie : Bool) (P : Preset) (s : State), EncodeReady mode P s →
    exec (.encode mode ie) s = .next { s with
      ctrl := { op := 2, mode := mode, ie := ie }
      status := { busy := true, done := false, err := false, errcode := 0 }
      cursor := 0
      outLen := 0
      spDec := 0
      spEnc := 0
      bestSavings := 0
      peakCursor := 0
      phase := .encBlock }

/-- What a command's START step leaves alone, accepted, refused or ignored (R263, R305): the input, the
match result, the memories, the block and search registers, and everything outside the engine; FIND leaves
the ENCODE results alone too. -/
def Obligations.CommandStartFrame : Prop :=
  ∀ (mode : BitVec 2) (ie : Bool) (s t : State),
    (exec (.find mode ie) s = .next t ∨ exec (.encode mode ie) s = .next t →
      t.srcLen = s.srcLen ∧ t.matchPos = s.matchPos ∧ t.matchLen = s.matchLen ∧ t.imem = s.imem ∧
      t.omem = s.omem ∧ SameBytes s t ∧ t.flagPtr = s.flagPtr ∧ t.flagAcc = s.flagAcc ∧
      t.chunkIdx = s.chunkIdx ∧ t.search = s.search ∧ t.decoder = s.decoder ∧ t.params = s.params ∧
      t.powerUp = s.powerUp ∧ t.freeCtr = s.freeCtr ∧ t.hostOps = s.hostOps ∧
      t.hostSeen = s.hostSeen ∧ t.turns = s.turns) ∧
    (exec (.find mode ie) s = .next t →
      t.cursor = s.cursor ∧ t.outLen = s.outLen ∧ t.spDec = s.spDec ∧ t.spEnc = s.spEnc ∧
      t.bestSavings = s.bestSavings ∧ t.peakCursor = s.peakCursor)

/-! ## The match search (40_match_search.md) -/

/-- R143: Select is NOTFOUND exactly when the length occurs nowhere, else the least or the greatest
position where it occurs. -/
def Obligations.SelectPicksByDirection : Prop :=
  ∀ (rd : Nat → Byte) (reverse : Bool) (c ws m : Nat),
    (select rd reverse c ws m = none ↔ ∀ p, occurs rd c ws p m = false) ∧
    (∀ p, select rd false c ws m = some p ↔
      occurs rd c ws p m = true ∧ ∀ q, occurs rd c ws q m = true → p ≤ q) ∧
    (∀ p, select rd true c ws m = some p ↔
      occurs rd c ws p m = true ∧ ∀ q, occurs rd c ws q m = true → q ≤ p)

/-- R145: the binary search returns the longest length that occurs at all, selected by direction, and
(0, 0) if that length is 0; for every parameter set. -/
def Obligations.SearchReturnsTheLongestMatch : Prop :=
  ∀ (rd : Nat → Byte) (P : Preset) (n c : Nat), c < n →
    let r := findLongestMatch rd P n c
    let ws := c - P.maxMatchDiff
    let u := min P.maxMatchLength (n - c)
    r.recLen ≤ u ∧ (∃ p, occurs rd c ws p r.recLen = true) ∧
    (∀ m p, m ≤ u → occurs rd c ws p m = true → m ≤ r.recLen) ∧
    (1 ≤ r.recLen → select rd P.searchReverse c ws r.recLen = some r.recPos) ∧
    (r.recLen = 0 → r.recPos = 0)

/-- R147: among equal longest matches BLOCK returns the one of largest distance and IMAGE the one of
smallest distance. -/
def Obligations.TiesFollowTheSearchDirection : Prop :=
  ∀ (rd : Nat → Byte) (n c p : Nat), c < n →
    (1 ≤ (findLongestMatch rd Preset.block n c).recLen →
      occurs rd c (c - 0x1000) p (findLongestMatch rd Preset.block n c).recLen = true →
      c - p ≤ c - (findLongestMatch rd Preset.block n c).recPos) ∧
    (1 ≤ (findLongestMatch rd Preset.image n c).recLen →
      occurs rd c (c - 0x1002) p (findLongestMatch rd Preset.image n c).recLen = true →
      c - (findLongestMatch rd Preset.image n c).recPos ≤ c - p)

/-- R151: the ranges of a result, so that the displacement of an emitted match fits its field and MATCH_POS
and MATCH_LEN hold the result exactly. -/
def Obligations.SearchResultRanges : Prop :=
  ∀ (rd : Nat → Byte) (kind : StreamKind) (n c : Nat), c < n → n < 2 ^ 24 →
    let P := kind.preset
    let r := findLongestMatch rd P n c
    1 ≤ r.recLen →
    c - P.maxMatchDiff ≤ r.recPos ∧ r.recPos + r.recLen ≤ c ∧ r.recLen ≤ c - r.recPos ∧
    c - r.recPos ≤ P.maxMatchDiff ∧ r.recLen ≤ 18 ∧
    (3 ≤ r.recLen → 3 ≤ c - r.recPos ∧ P.posSubtract ≤ c - r.recPos ∧
      (kind = .block → 2 ≤ c - r.recPos - P.posSubtract) ∧ c - r.recPos - P.posSubtract ≤ 0xFFF) ∧
    (BitVec.ofNat 24 r.recPos).toNat = r.recPos ∧ (BitVec.ofNat 5 r.recLen).toNat = r.recLen

/-- R150: an evaluation depends only on the bytes in [WS, c + U), all of them below N. -/
def Obligations.SearchReadsOnlyItsWindow : Prop :=
  ∀ (rd rd' : Nat → Byte) (P : Preset) (n c : Nat), c < n →
    c + min P.maxMatchLength (n - c) ≤ n ∧
    ((∀ a, c - P.maxMatchDiff ≤ a → a < c + min P.maxMatchLength (n - c) → rd a = rd' a) →
      findLongestMatch rd P n c = findLongestMatch rd' P n c)

/-! ## ENCODE's steps (41_greedy_encoder.md), from states that meet the invariant -/

/-- R172: the block-start step writes the placeholder and counts it, or ends the run when no input is left
(the end as R180 gives it). -/
def Obligations.BlockStartWritesThePlaceholder : Prop :=
  ∀ s : State, s.Inv → s.phase = .encBlock →
    if s.cursor.toNat < s.srcLen.toNat then
      ∃ t : State, engineStep s = .next t ∧
        t = { s with flagPtr := s.outLen, outLen := t.outLen, spEnc := t.spEnc, flagAcc := 0, chunkIdx := 0,
                     phase := .encChunk, omem := t.omem } ∧
        t.outLen.toNat = s.outLen.toNat + 1 ∧ t.spEnc.toNat = s.spEnc.toNat + 1 ∧
        (∀ a, t.omemByte a = if a = s.outLen.toNat then 0 else s.omemByte a)
    else
      s.cursor = s.srcLen ∧
      engineStep s = .next { s with
        phase := .idle, status := { busy := false, done := true, err := false, errcode := 0 } }

/-- R173: a slot after the input is exhausted writes a filler with zeroFill and nothing without, and changes
no counter; then R178. -/
def Obligations.ExhaustedSlotWritesAFillerOrNothing : Prop :=
  ∀ (s : State) (P : Preset), s.Inv → s.phase = .encChunk → s.preset = some P →
    s.srcLen.toNat ≤ s.cursor.toNat →
    ∃ t : State, engineStep s = .next t ∧
      t = { s with outLen := t.outLen, omem := t.omem, phase := t.phase, chunkIdx := t.chunkIdx } ∧
      IndexAfter s t ∧
      (P.zeroFill = true → t.outLen.toNat = s.outLen.toNat + 1 ∧
        ∀ a, t.omemByte a = if a = s.outLen.toNat then 0 else s.omemByte a) ∧
      (P.zeroFill = false → t.outLen = s.outLen ∧ t.omem = s.omem)

/-- R175, with R174's choice, R177 and R178: a match longer than 2 is emitted as a back-reference. -/
def Obligations.LongMatchIsEmittedAsReference : Prop :=
  ∀ (s : State) (P : Preset), s.Inv → s.phase = .encChunk → s.preset = some P →
    s.cursor.toNat < s.srcLen.toNat →
    let r := findLongestMatch s.imemByte P s.srcLen.toNat s.cursor.toNat
    let disp := s.cursor.toNat - r.recPos - P.posSubtract
    2 < r.recLen →
    ∃ t : State, engineStep s = .next t ∧
      t = { s with outLen := t.outLen, omem := t.omem, cursor := t.cursor, spDec := t.spDec, spEnc := t.spEnc,
                   bestSavings := t.bestSavings, peakCursor := t.peakCursor, search := t.search,
                   flagAcc := s.flagAcc ||| (1#8 <<< (7 - s.chunkIdx.val)),
                   phase := t.phase, chunkIdx := t.chunkIdx } ∧
      t.cursor.toNat = s.cursor.toNat + r.recLen ∧ t.outLen.toNat = s.outLen.toNat + 2 ∧
      (∀ a, t.omemByte a =
        if a = s.outLen.toNat then BitVec.ofNat 8 ((r.recLen - 3) * 16 + disp / 256)
        else if a = s.outLen.toNat + 1 then BitVec.ofNat 8 (disp % 256)
        else s.omemByte a) ∧
      TraceAfter r.recLen 2 s t ∧ IndexAfter s t

/-- R176, with R174's choice, R177 and R178: without a match longer than 2 the byte at CURSOR is emitted. -/
def Obligations.ShortMatchIsEmittedAsLiteral : Prop :=
  ∀ (s : State) (P : Preset), s.Inv → s.phase = .encChunk → s.preset = some P →
    s.cursor.toNat < s.srcLen.toNat →
    let r := findLongestMatch s.imemByte P s.srcLen.toNat s.cursor.toNat
    r.recLen ≤ 2 →
    ∃ t : State, engineStep s = .next t ∧
      t = { s with outLen := t.outLen, omem := t.omem, cursor := t.cursor, spDec := t.spDec, spEnc := t.spEnc,
                   bestSavings := t.bestSavings, peakCursor := t.peakCursor, search := t.search,
                   phase := t.phase, chunkIdx := t.chunkIdx } ∧
      t.cursor.toNat = s.cursor.toNat + 1 ∧ t.outLen.toNat = s.outLen.toNat + 1 ∧
      (∀ a, t.omemByte a = if a = s.outLen.toNat then s.imemByte s.cursor.toNat else s.omemByte a) ∧
      TraceAfter 1 1 s t ∧ IndexAfter s t

/-- R179: the flush step writes the block's flag byte and goes to the next block; nothing else changes. -/
def Obligations.FlushWritesTheFlagByte : Prop :=
  ∀ s : State, s.Inv → s.phase = .encFlush →
    ∃ t : State, engineStep s = .next t ∧ t = { s with omem := t.omem, phase := .encBlock } ∧
      ∀ a, t.omemByte a = if a = s.flagPtr.toNat then s.flagAcc else s.omemByte a

/-- R267: in a state that meets the invariant no engine step faults or is refused. -/
def Obligations.EngineStepNeverFails : Prop :=
  ∀ s : State, s.Inv → ∃ t, engineStep s = .next t

/-- What an engine step leaves alone in any state: everything outside the engine (IMEM, the parameters and
the host's side among it), ERR and ERRCODE; the match result but for FIND's step, and the ENCODE results,
the block registers and OMEM in FIND's step (R149, R305). -/
def Obligations.EngineStepFrame : Prop :=
  ∀ s t : State, engineStep s = .next t →
    SameOutsideEngine s t ∧ (∀ a, t.imemByte a = s.imemByte a) ∧
    t.status.err = s.status.err ∧ t.status.errcode = s.status.errcode ∧
    (s.phase ≠ .findRun → t.matchPos = s.matchPos ∧ t.matchLen = s.matchLen) ∧
    (s.phase = .findRun → t.cursor = s.cursor ∧ t.outLen = s.outLen ∧ t.spDec = s.spDec ∧
      t.spEnc = s.spEnc ∧ t.bestSavings = s.bestSavings ∧ t.peakCursor = s.peakCursor ∧
      t.flagPtr = s.flagPtr ∧ t.flagAcc = s.flagAcc ∧ t.chunkIdx = s.chunkIdx ∧ t.omem = s.omem)

/-- R84's write order, step by step: the block-start and chunk steps write OMEM only from the old OUT_LEN up
to the new one, the flush step only the flag byte's address, and no other step writes it. -/
def Obligations.EngineWritesOmemInOrder : Prop :=
  ∀ s t : State, s.Inv → engineStep s = .next t →
    (s.phase = .idle ∨ s.phase = .findRun → t.omem = s.omem) ∧
    (s.phase = .encBlock ∨ s.phase = .encChunk → s.outLen.toNat ≤ t.outLen.toNat ∧
      ∀ a, a < s.outLen.toNat ∨ t.outLen.toNat ≤ a → t.omemByte a = s.omemByte a) ∧
    (s.phase = .encFlush → s.flagPtr.toNat < t.outLen.toNat ∧ t.outLen = s.outLen ∧
      ∀ a, a ≠ s.flagPtr.toNat → t.omemByte a = s.omemByte a)

/-! ## ENCODE's run -/

/-- R181: from any state that accepts it, ENCODE's START and then `10 * nb + 1` engine steps (R302) leave the
results of EncodeAll in OMEM and the registers, BUSY until the last step, and all else as it was. -/
def Obligations.EncodeRunComputesEncodeAll : Prop :=
  ∀ (mode : BitVec 2) (ie : Bool) (P : Preset) (s : State), EncodeReady mode P s →
    let e := encodeAll s.imemByte P s.srcLen.toNat
    ∃ t u : State, exec (.encode mode ie) s = .next t ∧ engineRun (10 * e.blocks + 1) t = .next u ∧
      HoldsResults e u ∧
      (∀ a, e.out.length ≤ a → u.omemByte a = s.omemByte a) ∧
      SameOutsideEngine t u ∧ u.matchPos = s.matchPos ∧ u.matchLen = s.matchLen ∧
      (∀ k, k ≤ 10 * e.blocks → ∃ v : State, engineRun k t = .next v ∧ v.status.busy = true)

/-- R186: decoding the stream that a run leaves in OMEM gives back its input, for both presets and both
values of IMAGE_CLAMP. -/
def Obligations.DecodingAnEncodedStreamGivesTheInput : Prop :=
  ∀ (mode : BitVec 2) (ie : Bool) (kind : StreamKind) (clamp : ClampMode) (s : State),
    EncodeReady mode kind.preset s →
    ∃ (t u : State) (k : Nat), exec (.encode mode ie) s = .next t ∧ engineRun k t = .next u ∧
      u.phase = .idle ∧ u.status.done = true ∧
      decodeStream kind clamp u.encodedStream s.srcLen.toNat = .ok s.inputBytes

/-- R184: two machines that agree on IMEM[0 .. N), N and MODE, and perhaps on nothing else, end an ENCODE
with the same results. -/
def Obligations.EncodeResultsDependOnTheInputAlone : Prop :=
  ∀ (mode : BitVec 2) (ie ie' : Bool) (P : Preset) (s s' : State),
    EncodeReady mode P s → EncodeReady mode P s' → s'.srcLen = s.srcLen →
    (∀ a, a < s.srcLen.toNat → s'.imemByte a = s.imemByte a) →
    ∃ (t t' u u' : State) (k : Nat),
      exec (.encode mode ie) s = .next t ∧ exec (.encode mode ie') s' = .next t' ∧
      engineRun k t = .next u ∧ engineRun k t' = .next u' ∧ u.phase = .idle ∧ u'.phase = .idle ∧
      u'.encodedStream = u.encodedStream ∧ u'.outLen = u.outLen ∧ u'.spDec = u.spDec ∧ u'.spEnc = u.spEnc ∧
      u'.bestSavings = u.bestSavings ∧ u'.peakCursor = u.peakCursor ∧ u'.cursor = u.cursor

/-- R183, at the end of a run, for both presets: the input is used up, and the counters and the output keep
their bounds. -/
def Obligations.EncodeOutputIsBounded : Prop :=
  ∀ (rd : Nat → Byte) (kind : StreamKind) (n : Nat),
    let e := encodeAll rd kind.preset n
    e.cur = n ∧ e.best ≤ n ∧ e.peak ≤ n ∧ e.spDec ≤ n ∧ e.blocks ≤ (n + 7) / 8 ∧
    e.out.length ≤ n + (n + 7) / 8 + (if kind.preset.zeroFill then 7 else 0)

/-- R182: SP_DEC is N - PEAK_CURSOR; SP_ENC counts the stream bytes after the peak but the fillers, where the
stream had PEAK_CURSOR - BEST_SAVINGS bytes at the peak (0 if no peak was recorded). IMAGE has no fillers, and
BLOCK at most 7 (R183). -/
def Obligations.SincePeakCountersMeasureTheTail : Prop :=
  ∀ (rd : Nat → Byte) (kind : StreamKind) (n : Nat),
    let e := encodeAll rd kind.preset n
    e.spDec = n - e.peak ∧ e.best ≤ e.peak ∧
    e.spEnc + (e.peak - e.best) + e.fillers = e.out.length ∧
    (kind = .image → e.fillers = 0) ∧ e.fillers ≤ 7

/-- 45_host_framing.md R245: the IMAGE stream cut at the savings peak decodes to the input before the last
SP_DEC bytes. -/
def Obligations.TrimmedImageStreamDecodesToThePeak : Prop :=
  ∀ (rd : Nat → Byte) (clamp : ClampMode) (n : Nat),
    let e := encodeAll rd Preset.image n
    decodeStream .image clamp (e.out.take (e.out.length - e.spEnc)) (n - e.spDec) =
      .ok ((List.range (n - e.spDec)).map rd)

/-! ## Chunk semantics (42_chunk_semantics.md) -/

/-- FLAG, with output still to come, opens its block: the first slot is next and one byte is read; nothing
else changes. At a block's start this is R210; that a FLAG executed anywhere else does the same is the
model's choice (log 19). -/
def Obligations.FlagOpensItsBlock : Prop :=
  ∀ (f : Byte) (s : State), s.decoder.out.length < s.decoder.expect →
    exec (.flag f) s = .next { s with decoder := { s.decoder with
      idx := s.decoder.idx + 1, phase := .slot f 0 } }

/-- R211's effect: LIT, with output still to come, appends its byte; nothing outside the decoder changes. In a
slot whose flag bit is 1 that is the model's choice (log 19). -/
def Obligations.LiteralAppendsItsByte : Prop :=
  ∀ (x f : Byte) (b : Fin 8) (s : State), s.decoder.phase = .slot f b →
    s.decoder.out.length < s.decoder.expect →
    ∃ t : State, exec (.lit x) s = .next t ∧ t = { s with decoder := t.decoder } ∧
      SameStream 1 s.decoder t.decoder ∧ t.decoder.out = s.decoder.out ++ [x] ∧ SlotAfter f b t.decoder

/-- R211 as a step: in a slot whose flag bit is 0 the next stream byte is appended, and a stream with no byte
left raises TruncatedInput. So does a stream with fewer than two bytes left in a slot whose flag bit is 1 (R212,
R216), and with none left at a block's start while output is still to come (R215, R216). -/
def Obligations.LiteralSlotTakesTheNextStreamByte : Prop :=
  ∀ s : State, s.turn = .decoder → s.decoder.out.length < s.decoder.expect →
    (∀ (f : Byte) (b : Fin 8), s.decoder.phase = .slot f b → f.getLsbD (7 - b.val) = false →
      (s.decoder.stream.length ≤ s.decoder.idx → StepTruncates s) ∧
      (∀ x, s.decoder.stream[s.decoder.idx]? = some x →
        ∃ t, step s = .next t ∧ t.decoder.out = s.decoder.out ++ [x] ∧ t.decoder.idx = s.decoder.idx + 1)) ∧
    (∀ (f : Byte) (b : Fin 8), s.decoder.phase = .slot f b → f.getLsbD (7 - b.val) = true →
      s.decoder.stream.length ≤ s.decoder.idx + 1 → StepTruncates s) ∧
    (s.decoder.phase = .blockStart → s.decoder.stream.length ≤ s.decoder.idx → StepTruncates s)

/-- R212: REF.B with a distance within the output copies its bytes one at a time, cut short at N (R215), and
moves to the next slot; nothing outside the decoder changes. In a slot whose flag bit is 0, or on an IMAGE decoder,
that is the model's choice (log 19). -/
def Obligations.BlockReferenceCopies : Prop :=
  ∀ (len dist : Nat) (f : Byte) (b : Fin 8) (s : State),
    3 ≤ len → len ≤ 18 → 1 ≤ dist → dist ≤ 4096 → s.decoder.phase = .slot f b →
    s.decoder.out.length < s.decoder.expect → dist ≤ s.decoder.out.length →
    ∃ t : State, exec (.refB len dist) s = .next t ∧ t = { s with decoder := t.decoder } ∧
      SameStream 2 s.decoder t.decoder ∧
      CopiesFrom dist len s.decoder.expect s.decoder.out t.decoder.out ∧ SlotAfter f b t.decoder

/-- R213: REF.B in a slot, with a distance beyond the output, raises InvalidBackReference before copying. In
a slot whose flag bit is 0, or on an IMAGE decoder, that is the model's choice (log 19). -/
def Obligations.BlockReferenceBeyondOutputFails : Prop :=
  ∀ (len dist : Nat) (f : Byte) (b : Fin 8) (s : State), 3 ≤ len → len ≤ 18 → dist ≤ 4096 →
    s.decoder.phase = .slot f b →
    s.decoder.out.length < s.decoder.expect → s.decoder.out.length < dist →
    ∃ t : State, exec (.refB len dist) s = .next t ∧ t = { s with decoder := t.decoder } ∧
      t.decoder.result = some (.error .invalidBackReference) ∧ t.decoder.out = s.decoder.out

/-- R214: REF.I copies from its distance; beyond the output from distance 2, under compat with 2 bytes
written, and otherwise raises InvalidBackReference. In a slot whose flag bit is 0, or on a BLOCK decoder, that is the
model's choice (log 19). -/
def Obligations.ImageReferenceCopiesOrClamps : Prop :=
  ∀ (len dist : Nat) (f : Byte) (b : Fin 8) (s : State),
    3 ≤ len → len ≤ 18 → 3 ≤ dist → dist ≤ 4098 → s.decoder.phase = .slot f b →
    s.decoder.out.length < s.decoder.expect →
    ∃ t : State, exec (.refI len dist) s = .next t ∧ t = { s with decoder := t.decoder } ∧
      SameStream 2 s.decoder t.decoder ∧
      (dist ≤ s.decoder.out.length →
        CopiesFrom dist len s.decoder.expect s.decoder.out t.decoder.out ∧ SlotAfter f b t.decoder) ∧
      (s.decoder.out.length < dist → s.params.imageClamp = .compat → 2 ≤ s.decoder.out.length →
        CopiesFrom 2 len s.decoder.expect s.decoder.out t.decoder.out ∧ SlotAfter f b t.decoder) ∧
      (s.decoder.out.length < dist → s.params.imageClamp = .strict ∨ s.decoder.out.length < 2 →
        t.decoder.result = some (.error .invalidBackReference) ∧ t.decoder.out = s.decoder.out)

/-- What an executed stream item leaves alone, in any state: everything outside the decoder, the stream, its
kind and N; and the output only grows, to no more than N (R300). Of an item out of its place that is the model's
choice (log 19). -/
def Obligations.StreamItemFrame : Prop :=
  ∀ (i : Instr) (s t : State), (i.place = .blockStart ∨ ∃ r k, i.place = .slot r k) →
    exec i s = .next t →
    t = { s with decoder := t.decoder } ∧ SameBytes s t ∧ t.decoder.kind = s.decoder.kind ∧
    t.decoder.stream = s.decoder.stream ∧ t.decoder.expect = s.decoder.expect ∧
    s.decoder.out <+: t.decoder.out ∧
    t.decoder.out.length ≤ max s.decoder.out.length s.decoder.expect

/-- R215, R300: once `|out| = N` a decoder's step stops it with its result, whatever the stream holds. That an
item executed there stops it too is the model's choice (log 19): the decoder's own step executes none. -/
def Obligations.DecoderStopsAtItsLength : Prop :=
  ∀ s : State, s.decoder.running = true → s.decoder.out.length = s.decoder.expect →
    (s.turn = .decoder → ∃ t, step s = .next t ∧ t.decoder.result = some (.ok s.decoder.out)) ∧
    (∀ i : Instr, i.wellFormed = true → (i.place = .blockStart ∨ ∃ r k, i.place = .slot r k) →
      ∃ t, exec i s = .next t ∧ t.decoder.result = some (.ok s.decoder.out))

/-- R300: decoding any stream, hostile or truncated, comes to a result, never of more than N bytes. -/
def Obligations.DecodingAlwaysEndsWithinBounds : Prop :=
  ∀ (kind : StreamKind) (clamp : ClampMode) (stream : List Byte) (n : Nat),
    (Decoder.run clamp (stream.length + 1) (Decoder.start kind stream n)).result.isSome = true ∧
    (∀ out, decodeStream kind clamp stream n = .ok out → out.length = n)

/-! ## Host accesses (20_memory.md, 70_reset_and_hazards.md) -/

/-- R76: while idle a read of any existing location is exact and changes nothing; the host has the value
(its record of it is the model's, log 6). -/
def Obligations.IdleReadsAreExactAndPure : Prop :=
  ∀ s : State, s.status.busy = false →
    (∀ r : Reg, hostRead .regs r.offset 4 s = .next { s with hostSeen := s.hostSeen ++ [regWord r s] }) ∧
    (∀ a, a < s.params.imemSize →
      hostRead .imem a 1 s = .next { s with hostSeen := s.hostSeen ++ [(s.imemByte a).setWidth 32] }) ∧
    (∀ a, a < s.params.omemSize →
      hostRead .omem a 1 s = .next { s with hostSeen := s.hostSeen ++ [(s.omemByte a).setWidth 32] })

/-- R296: while BUSY, CTRL, STATUS, SRC_LEN and PARAM read exactly, and every read of an existing location
completes and changes nothing but the host's side (what a result register or OMEM returns is free). That a read of IMEM
while BUSY completes is the model's choice (log 4): R77 gives that read for BUSY = 0 only. -/
def Obligations.BusyReadsCompleteAndControlIsExact : Prop :=
  ∀ (s : State) (sp : Space) (off size : Nat), s.status.busy = true →
    off < spaceSize s.params sp → widthAllowed sp off size = true →
    (∃ (v : Word) (n : Nat), hostRead sp off size s =
      .next { s with freeCtr := n, hostSeen := s.hostSeen ++ [v] }) ∧
    (∀ r : Reg, r = .ctrl ∨ r = .status ∨ r = .srcLen ∨ r = .param →
      hostRead .regs r.offset 4 s = .next { s with hostSeen := s.hostSeen ++ [regWord r s] })

/-- R295, R296, R73: the host accesses that a model refuses: writes to IMEM and OMEM while BUSY, and register
accesses that are not one aligned word. -/
def Obligations.ForbiddenHostAccessesAreRefused : Prop :=
  ∀ (s : State) (off size : Nat) (v : Word),
    (s.status.busy = true → off < s.params.imemSize →
      hostWrite .imem off 1 v s = .refused .memoryWriteWhileBusy) ∧
    (s.status.busy = true → off < s.params.omemSize →
      hostWrite .omem off 1 v s = .refused .memoryWriteWhileBusy) ∧
    (off < 0x100 → size ≠ 4 ∨ off % 4 ≠ 0 →
      hostWrite .regs off size v s = .refused .accessWidth ∧ hostRead .regs off size s = .refused .accessWidth)

/-- R77, R79: while idle the host writes any byte of IMEM and OMEM; that byte then reads as written and every
other byte as before, in both memories. -/
def Obligations.HostByteWriteIsReadBack : Prop :=
  ∀ (s : State) (a : Nat) (v : Word), s.status.busy = false →
    (a < s.params.imemSize → ∃ t : State, hostWrite .imem a 1 v s = .next t ∧ t = { s with imem := t.imem } ∧
      (∀ x, t.imemByte x = if x = a then v.setWidth 8 else s.imemByte x)) ∧
    (a < s.params.omemSize → ∃ t : State, hostWrite .omem a 1 v s = .next t ∧ t = { s with omem := t.omem } ∧
      (∀ x, t.omemByte x = if x = a then v.setWidth 8 else s.omemByte x))

/-- R301's last sentence, for reads: a host read between two engine steps does not change what the engine
does. -/
def Obligations.HostReadsDoNotDisturbTheEngine : Prop :=
  ∀ (s t u : State) (sp : Space) (off size : Nat),
    hostRead sp off size s = .next t → engineStep s = .next u →
    engineStep t = .next { u with freeCtr := t.freeCtr, hostSeen := t.hostSeen }

/-! ## The host's codecs (45_host_framing.md), as functions around the engine -/

/-- R242, R243: decompressing a compressed block gives it back, whatever BLOCK_TAG is. That compressBlock answers a
container whatever the memories' sizes are is the model's choice (log 32). -/
def Obligations.BlockCodecRoundTrips : Prop :=
  ∀ (h : HostParams) (b : List Byte), b.length ≤ maxInput →
    ∃ x, compressBlock h b = .ok x ∧ decompressBlock h x = .ok b

/-- R244, R247: an image container, main or not, that is compressed and whose extraSize is not 0
(90_conflicts.md C6, C11) decompresses to its data, for every input whose compressedLength fits its 24 bits. That
compressImage answers a container whatever the memories' sizes are is the model's choice (log 32). -/
def Obligations.ImageCodecRoundTripsUnlessRawOrAmbiguous : Prop :=
  ∀ (h : HostParams) (data : List Byte) (isMain : Bool),
    let k := if isMain then 0x4000 else 0
    let rem := data.drop k
    k ≤ data.length → rem.length < 2 ^ 24 →
    takesFallback h.padBasis (trimImage rem) rem.length = false →
    extraSizeWord h.padBasis (trimImage rem) rem.length ≠ 0 →
    (trimImage rem).stream.length + headerLength h.padBasis (trimImage rem) < 2 ^ 24 →
    ∃ x, compressImage h data isMain = .ok x ∧ decompressImage h x = .ok data

/-- R244: a main image's first 0x4000 bytes pass through, and any image, main or not, grows to at most its
length rounded up to 4, plus 8. -/
def Obligations.ImageCodecKeepsThePrefixAndTheBound : Prop :=
  ∀ (h : HostParams) (data out : List Byte),
    (compressImage h data true = .ok out → out.take 0x4000 = data.take 0x4000) ∧
    (∀ isMain, compressImage h data isMain = .ok out → out.length ≤ (data.length + 3) / 4 * 4 + 8)

/-! ## The model's own choice for chunks out of their place -/

/-- Log 19, the model's choice and no rule of the spec: a chunk executed where the decoder stands at no slot
has the effect it has in one, but that the phase stays unless the output is complete or the reference fails. It
covers LIT, REF.B and REF.I with every operand that an encoding has. -/
def Obligations.ChunksOutOfPlaceKeepTheirEffect : Prop :=
  ∀ s : State, (∀ f b, s.decoder.phase ≠ .slot f b) → s.decoder.out.length < s.decoder.expect →
    (∀ x, ∃ t : State, exec (.lit x) s = .next t ∧ t = { s with decoder := t.decoder } ∧
      SameStream 1 s.decoder t.decoder ∧ t.decoder.out = s.decoder.out ++ [x] ∧
      PhaseStaysUntilFull s.decoder t.decoder) ∧
    (∀ len dist, 3 ≤ len → len ≤ 18 → 1 ≤ dist → dist ≤ 4096 →
      ∃ t : State, exec (.refB len dist) s = .next t ∧ t = { s with decoder := t.decoder } ∧
        SameStream 2 s.decoder t.decoder ∧
        (dist ≤ s.decoder.out.length →
          CopiesFrom dist len s.decoder.expect s.decoder.out t.decoder.out ∧
          PhaseStaysUntilFull s.decoder t.decoder) ∧
        (s.decoder.out.length < dist →
          t.decoder.result = some (.error .invalidBackReference) ∧ t.decoder.out = s.decoder.out)) ∧
    (∀ len dist, 3 ≤ len → len ≤ 18 → 3 ≤ dist → dist ≤ 4098 →
      ∃ t : State, exec (.refI len dist) s = .next t ∧ t = { s with decoder := t.decoder } ∧
        SameStream 2 s.decoder t.decoder ∧
        (dist ≤ s.decoder.out.length →
          CopiesFrom dist len s.decoder.expect s.decoder.out t.decoder.out ∧
          PhaseStaysUntilFull s.decoder t.decoder) ∧
        (s.decoder.out.length < dist → s.params.imageClamp = .compat → 2 ≤ s.decoder.out.length →
          CopiesFrom 2 len s.decoder.expect s.decoder.out t.decoder.out ∧
          PhaseStaysUntilFull s.decoder t.decoder) ∧
        (s.decoder.out.length < dist → s.params.imageClamp = .strict ∨ s.decoder.out.length < 2 →
          t.decoder.result = some (.error .invalidBackReference) ∧ t.decoder.out = s.decoder.out))
end

