-- ==== Sys2Proof/Laws/State.lean ====
section
/-! SUPPORT. One lemma per field per named update of State (Machine/Ops.lean), true by rfl, so that no
proof unfolds a record update; then the updates that change nothing and the accessors' congruences. -/

namespace Sys2Proof.Machine

variable (s : State)

/-! ## setCtrl -/

@[simp] theorem State.setCtrl_ctrl (c : Ctrl) : (s.setCtrl c).ctrl = c := rfl
@[simp] theorem State.setCtrl_status (c : Ctrl) : (s.setCtrl c).status = s.status := rfl
@[simp] theorem State.setCtrl_srcLen (c : Ctrl) : (s.setCtrl c).srcLen = s.srcLen := rfl
@[simp] theorem State.setCtrl_cursor (c : Ctrl) : (s.setCtrl c).cursor = s.cursor := rfl
@[simp] theorem State.setCtrl_matchPos (c : Ctrl) : (s.setCtrl c).matchPos = s.matchPos := rfl
@[simp] theorem State.setCtrl_matchLen (c : Ctrl) : (s.setCtrl c).matchLen = s.matchLen := rfl
@[simp] theorem State.setCtrl_outLen (c : Ctrl) : (s.setCtrl c).outLen = s.outLen := rfl
@[simp] theorem State.setCtrl_spDec (c : Ctrl) : (s.setCtrl c).spDec = s.spDec := rfl
@[simp] theorem State.setCtrl_spEnc (c : Ctrl) : (s.setCtrl c).spEnc = s.spEnc := rfl
@[simp] theorem State.setCtrl_bestSavings (c : Ctrl) : (s.setCtrl c).bestSavings = s.bestSavings := rfl
@[simp] theorem State.setCtrl_peakCursor (c : Ctrl) : (s.setCtrl c).peakCursor = s.peakCursor := rfl
@[simp] theorem State.setCtrl_phase (c : Ctrl) : (s.setCtrl c).phase = s.phase := rfl
@[simp] theorem State.setCtrl_flagPtr (c : Ctrl) : (s.setCtrl c).flagPtr = s.flagPtr := rfl
@[simp] theorem State.setCtrl_flagAcc (c : Ctrl) : (s.setCtrl c).flagAcc = s.flagAcc := rfl
@[simp] theorem State.setCtrl_chunkIdx (c : Ctrl) : (s.setCtrl c).chunkIdx = s.chunkIdx := rfl
@[simp] theorem State.setCtrl_search (c : Ctrl) : (s.setCtrl c).search = s.search := rfl
@[simp] theorem State.setCtrl_imem (c : Ctrl) : (s.setCtrl c).imem = s.imem := rfl
@[simp] theorem State.setCtrl_omem (c : Ctrl) : (s.setCtrl c).omem = s.omem := rfl
@[simp] theorem State.setCtrl_decoder (c : Ctrl) : (s.setCtrl c).decoder = s.decoder := rfl
@[simp] theorem State.setCtrl_params (c : Ctrl) : (s.setCtrl c).params = s.params := rfl
@[simp] theorem State.setCtrl_powerUp (c : Ctrl) : (s.setCtrl c).powerUp = s.powerUp := rfl
@[simp] theorem State.setCtrl_freeCtr (c : Ctrl) : (s.setCtrl c).freeCtr = s.freeCtr := rfl
@[simp] theorem State.setCtrl_hostOps (c : Ctrl) : (s.setCtrl c).hostOps = s.hostOps := rfl
@[simp] theorem State.setCtrl_hostSeen (c : Ctrl) : (s.setCtrl c).hostSeen = s.hostSeen := rfl
@[simp] theorem State.setCtrl_turns (c : Ctrl) : (s.setCtrl c).turns = s.turns := rfl

/-! ## setStatus -/

@[simp] theorem State.setStatus_ctrl (st : Status) : (s.setStatus st).ctrl = s.ctrl := rfl
@[simp] theorem State.setStatus_status (st : Status) : (s.setStatus st).status = st := rfl
@[simp] theorem State.setStatus_srcLen (st : Status) : (s.setStatus st).srcLen = s.srcLen := rfl
@[simp] theorem State.setStatus_cursor (st : Status) : (s.setStatus st).cursor = s.cursor := rfl
@[simp] theorem State.setStatus_matchPos (st : Status) : (s.setStatus st).matchPos = s.matchPos := rfl
@[simp] theorem State.setStatus_matchLen (st : Status) : (s.setStatus st).matchLen = s.matchLen := rfl
@[simp] theorem State.setStatus_outLen (st : Status) : (s.setStatus st).outLen = s.outLen := rfl
@[simp] theorem State.setStatus_spDec (st : Status) : (s.setStatus st).spDec = s.spDec := rfl
@[simp] theorem State.setStatus_spEnc (st : Status) : (s.setStatus st).spEnc = s.spEnc := rfl
@[simp] theorem State.setStatus_bestSavings (st : Status) : (s.setStatus st).bestSavings = s.bestSavings := rfl
@[simp] theorem State.setStatus_peakCursor (st : Status) : (s.setStatus st).peakCursor = s.peakCursor := rfl
@[simp] theorem State.setStatus_phase (st : Status) : (s.setStatus st).phase = s.phase := rfl
@[simp] theorem State.setStatus_flagPtr (st : Status) : (s.setStatus st).flagPtr = s.flagPtr := rfl
@[simp] theorem State.setStatus_flagAcc (st : Status) : (s.setStatus st).flagAcc = s.flagAcc := rfl
@[simp] theorem State.setStatus_chunkIdx (st : Status) : (s.setStatus st).chunkIdx = s.chunkIdx := rfl
@[simp] theorem State.setStatus_search (st : Status) : (s.setStatus st).search = s.search := rfl
@[simp] theorem State.setStatus_imem (st : Status) : (s.setStatus st).imem = s.imem := rfl
@[simp] theorem State.setStatus_omem (st : Status) : (s.setStatus st).omem = s.omem := rfl
@[simp] theorem State.setStatus_decoder (st : Status) : (s.setStatus st).decoder = s.decoder := rfl
@[simp] theorem State.setStatus_params (st : Status) : (s.setStatus st).params = s.params := rfl
@[simp] theorem State.setStatus_powerUp (st : Status) : (s.setStatus st).powerUp = s.powerUp := rfl
@[simp] theorem State.setStatus_freeCtr (st : Status) : (s.setStatus st).freeCtr = s.freeCtr := rfl
@[simp] theorem State.setStatus_hostOps (st : Status) : (s.setStatus st).hostOps = s.hostOps := rfl
@[simp] theorem State.setStatus_hostSeen (st : Status) : (s.setStatus st).hostSeen = s.hostSeen := rfl
@[simp] theorem State.setStatus_turns (st : Status) : (s.setStatus st).turns = s.turns := rfl

/-! ## setOmem -/

@[simp] theorem State.setOmem_ctrl (m : Memory) : (s.setOmem m).ctrl = s.ctrl := rfl
@[simp] theorem State.setOmem_status (m : Memory) : (s.setOmem m).status = s.status := rfl
@[simp] theorem State.setOmem_srcLen (m : Memory) : (s.setOmem m).srcLen = s.srcLen := rfl
@[simp] theorem State.setOmem_cursor (m : Memory) : (s.setOmem m).cursor = s.cursor := rfl
@[simp] theorem State.setOmem_matchPos (m : Memory) : (s.setOmem m).matchPos = s.matchPos := rfl
@[simp] theorem State.setOmem_matchLen (m : Memory) : (s.setOmem m).matchLen = s.matchLen := rfl
@[simp] theorem State.setOmem_outLen (m : Memory) : (s.setOmem m).outLen = s.outLen := rfl
@[simp] theorem State.setOmem_spDec (m : Memory) : (s.setOmem m).spDec = s.spDec := rfl
@[simp] theorem State.setOmem_spEnc (m : Memory) : (s.setOmem m).spEnc = s.spEnc := rfl
@[simp] theorem State.setOmem_bestSavings (m : Memory) : (s.setOmem m).bestSavings = s.bestSavings := rfl
@[simp] theorem State.setOmem_peakCursor (m : Memory) : (s.setOmem m).peakCursor = s.peakCursor := rfl
@[simp] theorem State.setOmem_phase (m : Memory) : (s.setOmem m).phase = s.phase := rfl
@[simp] theorem State.setOmem_flagPtr (m : Memory) : (s.setOmem m).flagPtr = s.flagPtr := rfl
@[simp] theorem State.setOmem_flagAcc (m : Memory) : (s.setOmem m).flagAcc = s.flagAcc := rfl
@[simp] theorem State.setOmem_chunkIdx (m : Memory) : (s.setOmem m).chunkIdx = s.chunkIdx := rfl
@[simp] theorem State.setOmem_search (m : Memory) : (s.setOmem m).search = s.search := rfl
@[simp] theorem State.setOmem_imem (m : Memory) : (s.setOmem m).imem = s.imem := rfl
@[simp] theorem State.setOmem_omem (m : Memory) : (s.setOmem m).omem = m := rfl
@[simp] theorem State.setOmem_decoder (m : Memory) : (s.setOmem m).decoder = s.decoder := rfl
@[simp] theorem State.setOmem_params (m : Memory) : (s.setOmem m).params = s.params := rfl
@[simp] theorem State.setOmem_powerUp (m : Memory) : (s.setOmem m).powerUp = s.powerUp := rfl
@[simp] theorem State.setOmem_freeCtr (m : Memory) : (s.setOmem m).freeCtr = s.freeCtr := rfl
@[simp] theorem State.setOmem_hostOps (m : Memory) : (s.setOmem m).hostOps = s.hostOps := rfl
@[simp] theorem State.setOmem_hostSeen (m : Memory) : (s.setOmem m).hostSeen = s.hostSeen := rfl
@[simp] theorem State.setOmem_turns (m : Memory) : (s.setOmem m).turns = s.turns := rfl

/-! ## setImem -/

@[simp] theorem State.setImem_ctrl (m : Memory) : (s.setImem m).ctrl = s.ctrl := rfl
@[simp] theorem State.setImem_status (m : Memory) : (s.setImem m).status = s.status := rfl
@[simp] theorem State.setImem_srcLen (m : Memory) : (s.setImem m).srcLen = s.srcLen := rfl
@[simp] theorem State.setImem_cursor (m : Memory) : (s.setImem m).cursor = s.cursor := rfl
@[simp] theorem State.setImem_matchPos (m : Memory) : (s.setImem m).matchPos = s.matchPos := rfl
@[simp] theorem State.setImem_matchLen (m : Memory) : (s.setImem m).matchLen = s.matchLen := rfl
@[simp] theorem State.setImem_outLen (m : Memory) : (s.setImem m).outLen = s.outLen := rfl
@[simp] theorem State.setImem_spDec (m : Memory) : (s.setImem m).spDec = s.spDec := rfl
@[simp] theorem State.setImem_spEnc (m : Memory) : (s.setImem m).spEnc = s.spEnc := rfl
@[simp] theorem State.setImem_bestSavings (m : Memory) : (s.setImem m).bestSavings = s.bestSavings := rfl
@[simp] theorem State.setImem_peakCursor (m : Memory) : (s.setImem m).peakCursor = s.peakCursor := rfl
@[simp] theorem State.setImem_phase (m : Memory) : (s.setImem m).phase = s.phase := rfl
@[simp] theorem State.setImem_flagPtr (m : Memory) : (s.setImem m).flagPtr = s.flagPtr := rfl
@[simp] theorem State.setImem_flagAcc (m : Memory) : (s.setImem m).flagAcc = s.flagAcc := rfl
@[simp] theorem State.setImem_chunkIdx (m : Memory) : (s.setImem m).chunkIdx = s.chunkIdx := rfl
@[simp] theorem State.setImem_search (m : Memory) : (s.setImem m).search = s.search := rfl
@[simp] theorem State.setImem_imem (m : Memory) : (s.setImem m).imem = m := rfl
@[simp] theorem State.setImem_omem (m : Memory) : (s.setImem m).omem = s.omem := rfl
@[simp] theorem State.setImem_decoder (m : Memory) : (s.setImem m).decoder = s.decoder := rfl
@[simp] theorem State.setImem_params (m : Memory) : (s.setImem m).params = s.params := rfl
@[simp] theorem State.setImem_powerUp (m : Memory) : (s.setImem m).powerUp = s.powerUp := rfl
@[simp] theorem State.setImem_freeCtr (m : Memory) : (s.setImem m).freeCtr = s.freeCtr := rfl
@[simp] theorem State.setImem_hostOps (m : Memory) : (s.setImem m).hostOps = s.hostOps := rfl
@[simp] theorem State.setImem_hostSeen (m : Memory) : (s.setImem m).hostSeen = s.hostSeen := rfl
@[simp] theorem State.setImem_turns (m : Memory) : (s.setImem m).turns = s.turns := rfl

/-! ## setSearch -/

@[simp] theorem State.setSearch_ctrl (r : SearchRegs) : (s.setSearch r).ctrl = s.ctrl := rfl
@[simp] theorem State.setSearch_status (r : SearchRegs) : (s.setSearch r).status = s.status := rfl
@[simp] theorem State.setSearch_srcLen (r : SearchRegs) : (s.setSearch r).srcLen = s.srcLen := rfl
@[simp] theorem State.setSearch_cursor (r : SearchRegs) : (s.setSearch r).cursor = s.cursor := rfl
@[simp] theorem State.setSearch_matchPos (r : SearchRegs) : (s.setSearch r).matchPos = s.matchPos := rfl
@[simp] theorem State.setSearch_matchLen (r : SearchRegs) : (s.setSearch r).matchLen = s.matchLen := rfl
@[simp] theorem State.setSearch_outLen (r : SearchRegs) : (s.setSearch r).outLen = s.outLen := rfl
@[simp] theorem State.setSearch_spDec (r : SearchRegs) : (s.setSearch r).spDec = s.spDec := rfl
@[simp] theorem State.setSearch_spEnc (r : SearchRegs) : (s.setSearch r).spEnc = s.spEnc := rfl
@[simp] theorem State.setSearch_bestSavings (r : SearchRegs) : (s.setSearch r).bestSavings = s.bestSavings := rfl
@[simp] theorem State.setSearch_peakCursor (r : SearchRegs) : (s.setSearch r).peakCursor = s.peakCursor := rfl
@[simp] theorem State.setSearch_phase (r : SearchRegs) : (s.setSearch r).phase = s.phase := rfl
@[simp] theorem State.setSearch_flagPtr (r : SearchRegs) : (s.setSearch r).flagPtr = s.flagPtr := rfl
@[simp] theorem State.setSearch_flagAcc (r : SearchRegs) : (s.setSearch r).flagAcc = s.flagAcc := rfl
@[simp] theorem State.setSearch_chunkIdx (r : SearchRegs) : (s.setSearch r).chunkIdx = s.chunkIdx := rfl
@[simp] theorem State.setSearch_search (r : SearchRegs) : (s.setSearch r).search = r := rfl
@[simp] theorem State.setSearch_imem (r : SearchRegs) : (s.setSearch r).imem = s.imem := rfl
@[simp] theorem State.setSearch_omem (r : SearchRegs) : (s.setSearch r).omem = s.omem := rfl
@[simp] theorem State.setSearch_decoder (r : SearchRegs) : (s.setSearch r).decoder = s.decoder := rfl
@[simp] theorem State.setSearch_params (r : SearchRegs) : (s.setSearch r).params = s.params := rfl
@[simp] theorem State.setSearch_powerUp (r : SearchRegs) : (s.setSearch r).powerUp = s.powerUp := rfl
@[simp] theorem State.setSearch_freeCtr (r : SearchRegs) : (s.setSearch r).freeCtr = s.freeCtr := rfl
@[simp] theorem State.setSearch_hostOps (r : SearchRegs) : (s.setSearch r).hostOps = s.hostOps := rfl
@[simp] theorem State.setSearch_hostSeen (r : SearchRegs) : (s.setSearch r).hostSeen = s.hostSeen := rfl
@[simp] theorem State.setSearch_turns (r : SearchRegs) : (s.setSearch r).turns = s.turns := rfl

/-! ## setDecoder -/

@[simp] theorem State.setDecoder_ctrl (d : Decoder) : (s.setDecoder d).ctrl = s.ctrl := rfl
@[simp] theorem State.setDecoder_status (d : Decoder) : (s.setDecoder d).status = s.status := rfl
@[simp] theorem State.setDecoder_srcLen (d : Decoder) : (s.setDecoder d).srcLen = s.srcLen := rfl
@[simp] theorem State.setDecoder_cursor (d : Decoder) : (s.setDecoder d).cursor = s.cursor := rfl
@[simp] theorem State.setDecoder_matchPos (d : Decoder) : (s.setDecoder d).matchPos = s.matchPos := rfl
@[simp] theorem State.setDecoder_matchLen (d : Decoder) : (s.setDecoder d).matchLen = s.matchLen := rfl
@[simp] theorem State.setDecoder_outLen (d : Decoder) : (s.setDecoder d).outLen = s.outLen := rfl
@[simp] theorem State.setDecoder_spDec (d : Decoder) : (s.setDecoder d).spDec = s.spDec := rfl
@[simp] theorem State.setDecoder_spEnc (d : Decoder) : (s.setDecoder d).spEnc = s.spEnc := rfl
@[simp] theorem State.setDecoder_bestSavings (d : Decoder) : (s.setDecoder d).bestSavings = s.bestSavings := rfl
@[simp] theorem State.setDecoder_peakCursor (d : Decoder) : (s.setDecoder d).peakCursor = s.peakCursor := rfl
@[simp] theorem State.setDecoder_phase (d : Decoder) : (s.setDecoder d).phase = s.phase := rfl
@[simp] theorem State.setDecoder_flagPtr (d : Decoder) : (s.setDecoder d).flagPtr = s.flagPtr := rfl
@[simp] theorem State.setDecoder_flagAcc (d : Decoder) : (s.setDecoder d).flagAcc = s.flagAcc := rfl
@[simp] theorem State.setDecoder_chunkIdx (d : Decoder) : (s.setDecoder d).chunkIdx = s.chunkIdx := rfl
@[simp] theorem State.setDecoder_search (d : Decoder) : (s.setDecoder d).search = s.search := rfl
@[simp] theorem State.setDecoder_imem (d : Decoder) : (s.setDecoder d).imem = s.imem := rfl
@[simp] theorem State.setDecoder_omem (d : Decoder) : (s.setDecoder d).omem = s.omem := rfl
@[simp] theorem State.setDecoder_decoder (d : Decoder) : (s.setDecoder d).decoder = d := rfl
@[simp] theorem State.setDecoder_params (d : Decoder) : (s.setDecoder d).params = s.params := rfl
@[simp] theorem State.setDecoder_powerUp (d : Decoder) : (s.setDecoder d).powerUp = s.powerUp := rfl
@[simp] theorem State.setDecoder_freeCtr (d : Decoder) : (s.setDecoder d).freeCtr = s.freeCtr := rfl
@[simp] theorem State.setDecoder_hostOps (d : Decoder) : (s.setDecoder d).hostOps = s.hostOps := rfl
@[simp] theorem State.setDecoder_hostSeen (d : Decoder) : (s.setDecoder d).hostSeen = s.hostSeen := rfl
@[simp] theorem State.setDecoder_turns (d : Decoder) : (s.setDecoder d).turns = s.turns := rfl

/-! ## setHostOps -/

@[simp] theorem State.setHostOps_ctrl (ops : List HostOp) : (s.setHostOps ops).ctrl = s.ctrl := rfl
@[simp] theorem State.setHostOps_status (ops : List HostOp) : (s.setHostOps ops).status = s.status := rfl
@[simp] theorem State.setHostOps_srcLen (ops : List HostOp) : (s.setHostOps ops).srcLen = s.srcLen := rfl
@[simp] theorem State.setHostOps_cursor (ops : List HostOp) : (s.setHostOps ops).cursor = s.cursor := rfl
@[simp] theorem State.setHostOps_matchPos (ops : List HostOp) : (s.setHostOps ops).matchPos = s.matchPos := rfl
@[simp] theorem State.setHostOps_matchLen (ops : List HostOp) : (s.setHostOps ops).matchLen = s.matchLen := rfl
@[simp] theorem State.setHostOps_outLen (ops : List HostOp) : (s.setHostOps ops).outLen = s.outLen := rfl
@[simp] theorem State.setHostOps_spDec (ops : List HostOp) : (s.setHostOps ops).spDec = s.spDec := rfl
@[simp] theorem State.setHostOps_spEnc (ops : List HostOp) : (s.setHostOps ops).spEnc = s.spEnc := rfl
@[simp] theorem State.setHostOps_bestSavings (ops : List HostOp) : (s.setHostOps ops).bestSavings = s.bestSavings := rfl
@[simp] theorem State.setHostOps_peakCursor (ops : List HostOp) : (s.setHostOps ops).peakCursor = s.peakCursor := rfl
@[simp] theorem State.setHostOps_phase (ops : List HostOp) : (s.setHostOps ops).phase = s.phase := rfl
@[simp] theorem State.setHostOps_flagPtr (ops : List HostOp) : (s.setHostOps ops).flagPtr = s.flagPtr := rfl
@[simp] theorem State.setHostOps_flagAcc (ops : List HostOp) : (s.setHostOps ops).flagAcc = s.flagAcc := rfl
@[simp] theorem State.setHostOps_chunkIdx (ops : List HostOp) : (s.setHostOps ops).chunkIdx = s.chunkIdx := rfl
@[simp] theorem State.setHostOps_search (ops : List HostOp) : (s.setHostOps ops).search = s.search := rfl
@[simp] theorem State.setHostOps_imem (ops : List HostOp) : (s.setHostOps ops).imem = s.imem := rfl
@[simp] theorem State.setHostOps_omem (ops : List HostOp) : (s.setHostOps ops).omem = s.omem := rfl
@[simp] theorem State.setHostOps_decoder (ops : List HostOp) : (s.setHostOps ops).decoder = s.decoder := rfl
@[simp] theorem State.setHostOps_params (ops : List HostOp) : (s.setHostOps ops).params = s.params := rfl
@[simp] theorem State.setHostOps_powerUp (ops : List HostOp) : (s.setHostOps ops).powerUp = s.powerUp := rfl
@[simp] theorem State.setHostOps_freeCtr (ops : List HostOp) : (s.setHostOps ops).freeCtr = s.freeCtr := rfl
@[simp] theorem State.setHostOps_hostOps (ops : List HostOp) : (s.setHostOps ops).hostOps = ops := rfl
@[simp] theorem State.setHostOps_hostSeen (ops : List HostOp) : (s.setHostOps ops).hostSeen = s.hostSeen := rfl
@[simp] theorem State.setHostOps_turns (ops : List HostOp) : (s.setHostOps ops).turns = s.turns := rfl

/-! ## setTurns -/

@[simp] theorem State.setTurns_ctrl (ts : List Agent) : (s.setTurns ts).ctrl = s.ctrl := rfl
@[simp] theorem State.setTurns_status (ts : List Agent) : (s.setTurns ts).status = s.status := rfl
@[simp] theorem State.setTurns_srcLen (ts : List Agent) : (s.setTurns ts).srcLen = s.srcLen := rfl
@[simp] theorem State.setTurns_cursor (ts : List Agent) : (s.setTurns ts).cursor = s.cursor := rfl
@[simp] theorem State.setTurns_matchPos (ts : List Agent) : (s.setTurns ts).matchPos = s.matchPos := rfl
@[simp] theorem State.setTurns_matchLen (ts : List Agent) : (s.setTurns ts).matchLen = s.matchLen := rfl
@[simp] theorem State.setTurns_outLen (ts : List Agent) : (s.setTurns ts).outLen = s.outLen := rfl
@[simp] theorem State.setTurns_spDec (ts : List Agent) : (s.setTurns ts).spDec = s.spDec := rfl
@[simp] theorem State.setTurns_spEnc (ts : List Agent) : (s.setTurns ts).spEnc = s.spEnc := rfl
@[simp] theorem State.setTurns_bestSavings (ts : List Agent) : (s.setTurns ts).bestSavings = s.bestSavings := rfl
@[simp] theorem State.setTurns_peakCursor (ts : List Agent) : (s.setTurns ts).peakCursor = s.peakCursor := rfl
@[simp] theorem State.setTurns_phase (ts : List Agent) : (s.setTurns ts).phase = s.phase := rfl
@[simp] theorem State.setTurns_flagPtr (ts : List Agent) : (s.setTurns ts).flagPtr = s.flagPtr := rfl
@[simp] theorem State.setTurns_flagAcc (ts : List Agent) : (s.setTurns ts).flagAcc = s.flagAcc := rfl
@[simp] theorem State.setTurns_chunkIdx (ts : List Agent) : (s.setTurns ts).chunkIdx = s.chunkIdx := rfl
@[simp] theorem State.setTurns_search (ts : List Agent) : (s.setTurns ts).search = s.search := rfl
@[simp] theorem State.setTurns_imem (ts : List Agent) : (s.setTurns ts).imem = s.imem := rfl
@[simp] theorem State.setTurns_omem (ts : List Agent) : (s.setTurns ts).omem = s.omem := rfl
@[simp] theorem State.setTurns_decoder (ts : List Agent) : (s.setTurns ts).decoder = s.decoder := rfl
@[simp] theorem State.setTurns_params (ts : List Agent) : (s.setTurns ts).params = s.params := rfl
@[simp] theorem State.setTurns_powerUp (ts : List Agent) : (s.setTurns ts).powerUp = s.powerUp := rfl
@[simp] theorem State.setTurns_freeCtr (ts : List Agent) : (s.setTurns ts).freeCtr = s.freeCtr := rfl
@[simp] theorem State.setTurns_hostOps (ts : List Agent) : (s.setTurns ts).hostOps = s.hostOps := rfl
@[simp] theorem State.setTurns_hostSeen (ts : List Agent) : (s.setTurns ts).hostSeen = s.hostSeen := rfl
@[simp] theorem State.setTurns_turns (ts : List Agent) : (s.setTurns ts).turns = ts := rfl

/-! ## seen -/

@[simp] theorem State.seen_ctrl (w : Word) : (s.seen w).ctrl = s.ctrl := rfl
@[simp] theorem State.seen_status (w : Word) : (s.seen w).status = s.status := rfl
@[simp] theorem State.seen_srcLen (w : Word) : (s.seen w).srcLen = s.srcLen := rfl
@[simp] theorem State.seen_cursor (w : Word) : (s.seen w).cursor = s.cursor := rfl
@[simp] theorem State.seen_matchPos (w : Word) : (s.seen w).matchPos = s.matchPos := rfl
@[simp] theorem State.seen_matchLen (w : Word) : (s.seen w).matchLen = s.matchLen := rfl
@[simp] theorem State.seen_outLen (w : Word) : (s.seen w).outLen = s.outLen := rfl
@[simp] theorem State.seen_spDec (w : Word) : (s.seen w).spDec = s.spDec := rfl
@[simp] theorem State.seen_spEnc (w : Word) : (s.seen w).spEnc = s.spEnc := rfl
@[simp] theorem State.seen_bestSavings (w : Word) : (s.seen w).bestSavings = s.bestSavings := rfl
@[simp] theorem State.seen_peakCursor (w : Word) : (s.seen w).peakCursor = s.peakCursor := rfl
@[simp] theorem State.seen_phase (w : Word) : (s.seen w).phase = s.phase := rfl
@[simp] theorem State.seen_flagPtr (w : Word) : (s.seen w).flagPtr = s.flagPtr := rfl
@[simp] theorem State.seen_flagAcc (w : Word) : (s.seen w).flagAcc = s.flagAcc := rfl
@[simp] theorem State.seen_chunkIdx (w : Word) : (s.seen w).chunkIdx = s.chunkIdx := rfl
@[simp] theorem State.seen_search (w : Word) : (s.seen w).search = s.search := rfl
@[simp] theorem State.seen_imem (w : Word) : (s.seen w).imem = s.imem := rfl
@[simp] theorem State.seen_omem (w : Word) : (s.seen w).omem = s.omem := rfl
@[simp] theorem State.seen_decoder (w : Word) : (s.seen w).decoder = s.decoder := rfl
@[simp] theorem State.seen_params (w : Word) : (s.seen w).params = s.params := rfl
@[simp] theorem State.seen_powerUp (w : Word) : (s.seen w).powerUp = s.powerUp := rfl
@[simp] theorem State.seen_freeCtr (w : Word) : (s.seen w).freeCtr = s.freeCtr := rfl
@[simp] theorem State.seen_hostOps (w : Word) : (s.seen w).hostOps = s.hostOps := rfl
@[simp] theorem State.seen_hostSeen (w : Word) : (s.seen w).hostSeen = s.hostSeen ++ [w] := rfl
@[simp] theorem State.seen_turns (w : Word) : (s.seen w).turns = s.turns := rfl

/-! ## endWith -/

@[simp] theorem State.endWith_ctrl (st : Status) : (s.endWith st).ctrl = s.ctrl := rfl
@[simp] theorem State.endWith_status (st : Status) : (s.endWith st).status = st := rfl
@[simp] theorem State.endWith_srcLen (st : Status) : (s.endWith st).srcLen = s.srcLen := rfl
@[simp] theorem State.endWith_cursor (st : Status) : (s.endWith st).cursor = s.cursor := rfl
@[simp] theorem State.endWith_matchPos (st : Status) : (s.endWith st).matchPos = s.matchPos := rfl
@[simp] theorem State.endWith_matchLen (st : Status) : (s.endWith st).matchLen = s.matchLen := rfl
@[simp] theorem State.endWith_outLen (st : Status) : (s.endWith st).outLen = s.outLen := rfl
@[simp] theorem State.endWith_spDec (st : Status) : (s.endWith st).spDec = s.spDec := rfl
@[simp] theorem State.endWith_spEnc (st : Status) : (s.endWith st).spEnc = s.spEnc := rfl
@[simp] theorem State.endWith_bestSavings (st : Status) : (s.endWith st).bestSavings = s.bestSavings := rfl
@[simp] theorem State.endWith_peakCursor (st : Status) : (s.endWith st).peakCursor = s.peakCursor := rfl
@[simp] theorem State.endWith_phase (st : Status) : (s.endWith st).phase = .idle := rfl
@[simp] theorem State.endWith_flagPtr (st : Status) : (s.endWith st).flagPtr = s.flagPtr := rfl
@[simp] theorem State.endWith_flagAcc (st : Status) : (s.endWith st).flagAcc = s.flagAcc := rfl
@[simp] theorem State.endWith_chunkIdx (st : Status) : (s.endWith st).chunkIdx = s.chunkIdx := rfl
@[simp] theorem State.endWith_search (st : Status) : (s.endWith st).search = s.search := rfl
@[simp] theorem State.endWith_imem (st : Status) : (s.endWith st).imem = s.imem := rfl
@[simp] theorem State.endWith_omem (st : Status) : (s.endWith st).omem = s.omem := rfl
@[simp] theorem State.endWith_decoder (st : Status) : (s.endWith st).decoder = s.decoder := rfl
@[simp] theorem State.endWith_params (st : Status) : (s.endWith st).params = s.params := rfl
@[simp] theorem State.endWith_powerUp (st : Status) : (s.endWith st).powerUp = s.powerUp := rfl
@[simp] theorem State.endWith_freeCtr (st : Status) : (s.endWith st).freeCtr = s.freeCtr := rfl
@[simp] theorem State.endWith_hostOps (st : Status) : (s.endWith st).hostOps = s.hostOps := rfl
@[simp] theorem State.endWith_hostSeen (st : Status) : (s.endWith st).hostSeen = s.hostSeen := rfl
@[simp] theorem State.endWith_turns (st : Status) : (s.endWith st).turns = s.turns := rfl

/-! ## nextFree -/

@[simp] theorem State.nextFree_ctrl : (s.nextFree).ctrl = s.ctrl := rfl
@[simp] theorem State.nextFree_status : (s.nextFree).status = s.status := rfl
@[simp] theorem State.nextFree_srcLen : (s.nextFree).srcLen = s.srcLen := rfl
@[simp] theorem State.nextFree_cursor : (s.nextFree).cursor = s.cursor := rfl
@[simp] theorem State.nextFree_matchPos : (s.nextFree).matchPos = s.matchPos := rfl
@[simp] theorem State.nextFree_matchLen : (s.nextFree).matchLen = s.matchLen := rfl
@[simp] theorem State.nextFree_outLen : (s.nextFree).outLen = s.outLen := rfl
@[simp] theorem State.nextFree_spDec : (s.nextFree).spDec = s.spDec := rfl
@[simp] theorem State.nextFree_spEnc : (s.nextFree).spEnc = s.spEnc := rfl
@[simp] theorem State.nextFree_bestSavings : (s.nextFree).bestSavings = s.bestSavings := rfl
@[simp] theorem State.nextFree_peakCursor : (s.nextFree).peakCursor = s.peakCursor := rfl
@[simp] theorem State.nextFree_phase : (s.nextFree).phase = s.phase := rfl
@[simp] theorem State.nextFree_flagPtr : (s.nextFree).flagPtr = s.flagPtr := rfl
@[simp] theorem State.nextFree_flagAcc : (s.nextFree).flagAcc = s.flagAcc := rfl
@[simp] theorem State.nextFree_chunkIdx : (s.nextFree).chunkIdx = s.chunkIdx := rfl
@[simp] theorem State.nextFree_search : (s.nextFree).search = s.search := rfl
@[simp] theorem State.nextFree_imem : (s.nextFree).imem = s.imem := rfl
@[simp] theorem State.nextFree_omem : (s.nextFree).omem = s.omem := rfl
@[simp] theorem State.nextFree_decoder : (s.nextFree).decoder = s.decoder := rfl
@[simp] theorem State.nextFree_params : (s.nextFree).params = s.params := rfl
@[simp] theorem State.nextFree_powerUp : (s.nextFree).powerUp = s.powerUp := rfl
@[simp] theorem State.nextFree_freeCtr : (s.nextFree).freeCtr = s.freeCtr + 1 := rfl
@[simp] theorem State.nextFree_hostOps : (s.nextFree).hostOps = s.hostOps := rfl
@[simp] theorem State.nextFree_hostSeen : (s.nextFree).hostSeen = s.hostSeen := rfl
@[simp] theorem State.nextFree_turns : (s.nextFree).turns = s.turns := rfl

/-! ## Updates that change nothing -/

@[simp] theorem State.setDecoder_self : s.setDecoder s.decoder = s := rfl
@[simp] theorem State.setTurns_self : s.setTurns s.turns = s := rfl
@[simp] theorem State.setHostOps_self : s.setHostOps s.hostOps = s := rfl
@[simp] theorem State.setStatus_self : s.setStatus s.status = s := rfl
@[simp] theorem State.setCtrl_self : s.setCtrl s.ctrl = s := rfl

/-! ## What the byte accessors depend on -/

/-- IMEM reads depend on IMEM and the power-up alone. -/
theorem State.imemByte_congr {s t : State} (hm : t.imem = s.imem) (hp : t.powerUp = s.powerUp) (a : Nat) :
    t.imemByte a = s.imemByte a := by simp [State.imemByte, hm, hp]

/-- OMEM reads depend on OMEM and the power-up alone. -/
theorem State.omemByte_congr {s t : State} (hm : t.omem = s.omem) (hp : t.powerUp = s.powerUp) (a : Nat) :
    t.omemByte a = s.omemByte a := by simp [State.omemByte, hm, hp]

end Sys2Proof.Machine
end

