-- ==== Sys2Proof/Laws/Commands.lean ====
section
/-! SUPPORT. What issuing a command and writing a register can do (60_exceptions.md R260 to R266). -/

namespace Sys2Proof.Machine

/-- A legal OP passes the first check. -/
theorem checkStart_of_preset {op mode : BitVec 2} {P : Preset} {s : State} (hop : op = opFind ∨ op = opEncode)
    (hP : presetOf mode = some P) : checkStart op mode s = checkWithPreset op P s := by
  unfold checkStart
  rcases hop with rfl | rfl <;> simp [hP, opFind, opEncode]

/-- Inversion of a command's START: ignored, refused with the first cause, or accepted (R260, R266). -/
theorem startCommand_cases (op mode : BitVec 2) (ie : Bool) (s : State) :
    let c : Ctrl := { op := op, mode := mode, ie := ie }
    (s.status.busy = true ∧ startCommand op mode ie s = s) ∨
    (s.status.busy = false ∧ ∃ e, checkStart op mode (s.setCtrl c) = some e ∧
      startCommand op mode ie s = refuseStart e (s.setCtrl c)) ∨
    (s.status.busy = false ∧ checkStart op mode (s.setCtrl c) = none ∧
      startCommand op mode ie s =
        if op = opFind then acceptFind (s.setCtrl c) else acceptEncode (s.setCtrl c)) := by
  intro c
  unfold startCommand issue
  cases hb : s.status.busy with
  | true => exact .inl ⟨rfl, by simp⟩
  | false =>
    cases hc : checkStart op mode (s.setCtrl c) with
    | some e => exact .inr (.inl ⟨rfl, e, rfl, by simp [c] at hc; simp [c, hc]⟩)
    | none => exact .inr (.inr ⟨rfl, rfl, by simp [c] at hc; simp [c, hc]; rfl⟩)

/-- While BUSY a write to any register changes nothing (R266, R297). -/
@[simp] theorem writeReg_busy {s : State} (h : s.status.busy = true) (r : Reg) (w : Word) :
    writeReg r w s = s := by
  cases r <;> simp [writeReg, writeCtrl, startCommand, h]

/-- A read-only register ignores writes always (10_state.md R30). -/
theorem writeReg_readOnly {r : Reg} (h : r ≠ .ctrl ∧ r ≠ .status ∧ r ≠ .srcLen ∧ r ≠ .cursor) (w : Word)
    (s : State) : writeReg r w s = s := by
  cases r <;> simp_all [writeReg]

/-- While idle every register read is exact. -/
@[simp] theorem readReg_idle {s : State} (h : s.status.busy = false) (r : Reg) :
    readReg r s = (regWord r s, s) := by
  simp [readReg, h]

/-- Inversion of a register read: exact and pure, or the next free value. -/
theorem readReg_cases (r : Reg) (s : State) :
    readReg r s = (regWord r s, s) ∨
      (s.status.busy = true ∧ r.isResult = true ∧ readReg r s = (s.freeValue r.width, s.nextFree)) := by
  unfold readReg
  split_ifs with h
  · exact .inr ⟨by simp_all, by simp_all, rfl⟩
  · exact .inl rfl

/-- A register is the one at its offset (R30). -/
@[simp] theorem Reg.ofOffset_offset (r : Reg) : Reg.ofOffset r.offset = some r := by cases r <;> rfl

end Sys2Proof.Machine
end

