-- ==== Sys2Proof/Laws/Fields.lean ====
section
/-! SUPPORT. The fields of the encodings: a command word and a back-reference field give back what was
put into them (30_encoding.md R103, R108). -/

namespace Sys2Proof

/-! ## The command word -/

@[simp] theorem ctrlStart_ctrlWordOf : ∀ (start : Bool) (op mode : BitVec 2) (ie : Bool),
    ctrlStart (ctrlWordOf start op mode ie) = start := by decide

@[simp] theorem ctrlOp_ctrlWordOf : ∀ (start : Bool) (op mode : BitVec 2) (ie : Bool),
    ctrlOp (ctrlWordOf start op mode ie) = op := by decide

@[simp] theorem ctrlMode_ctrlWordOf : ∀ (start : Bool) (op mode : BitVec 2) (ie : Bool),
    ctrlMode (ctrlWordOf start op mode ie) = mode := by decide

@[simp] theorem ctrlIe_ctrlWordOf : ∀ (start : Bool) (op mode : BitVec 2) (ie : Bool),
    ctrlIe (ctrlWordOf start op mode ie) = ie := by decide

/-- What a decoded command says of its word. -/
theorem decodeCommand_ok {w : Word} {i : Instr} (h : decodeCommand w = .ok i) :
    ctrlStart w = true ∧
      ((ctrlOp w = opFind ∧ i = .find (ctrlMode w) (ctrlIe w)) ∨
        (ctrlOp w = opEncode ∧ i = .encode (ctrlMode w) (ctrlIe w))) := by
  unfold decodeCommand at h
  split_ifs at h with h0 h1 h2
  · exact ⟨by simpa using h0, .inl ⟨h1, by simpa [eq_comm] using h⟩⟩
  · exact ⟨by simpa using h0, .inr ⟨h2, by simpa [eq_comm] using h⟩⟩

/-! ## The back-reference field -/

/-- LEN of a field with a length that has an encoding. -/
theorem refLength_refField {len : Nat} (disp : Nat) (h3 : 3 ≤ len) (h18 : len ≤ 18) :
    refLength (refField len disp) = len := by
  simp only [refLength, refField, BitVec.extractLsb'_toNat, BitVec.toNat_append, BitVec.toNat_ofNat]
  rw [Nat.shiftLeft_eq, ← Nat.shiftLeft_eq, ← Nat.shiftLeft_add_eq_or_of_lt (by omega),
    Nat.shiftLeft_eq, Nat.shiftRight_eq_div_pow]
  omega

/-- DISP of a field with a displacement that has an encoding. -/
theorem refDisp_refField {disp : Nat} (len : Nat) (h : disp ≤ 0xFFF) :
    refDisp (refField len disp) = disp := by
  simp only [refDisp, refField, BitVec.extractLsb'_toNat, BitVec.toNat_append, BitVec.toNat_ofNat]
  rw [← Nat.shiftLeft_add_eq_or_of_lt (by omega), Nat.shiftLeft_eq, Nat.shiftRight_eq_div_pow]
  omega

/-- A field is its LEN and DISP. -/
theorem refField_refLength_refDisp (field : BitVec 16) :
    refField (refLength field) (refDisp field) = field := by
  apply BitVec.eq_of_toNat_eq
  have hf := field.isLt
  simp only [refLength, refDisp, refField, BitVec.extractLsb'_toNat, BitVec.toNat_append,
    BitVec.toNat_ofNat]
  rw [← Nat.shiftLeft_add_eq_or_of_lt (by omega), Nat.shiftLeft_eq, Nat.shiftRight_eq_div_pow,
    Nat.shiftRight_eq_div_pow]
  omega

/-- The field of the two bytes that a field is stored as. -/
theorem fieldOfBytes_fieldBytes (field : BitVec 16) :
    fieldOfBytes (field.extractLsb' 8 8) (field.extractLsb' 0 8) = field := by
  apply BitVec.eq_of_toNat_eq
  have hf := field.isLt
  simp only [fieldOfBytes, BitVec.extractLsb'_toNat, BitVec.toNat_append]
  rw [← Nat.shiftLeft_add_eq_or_of_lt (by omega), Nat.shiftLeft_eq, Nat.shiftRight_eq_div_pow,
    Nat.shiftRight_eq_div_pow]
  omega

/-- The bytes of the field that two bytes make. -/
theorem fieldBytes_fieldOfBytes (b0 b1 : Byte) : fieldBytes (fieldOfBytes b0 b1) = [b0, b1] := by
  have h0 := b0.isLt
  have h1 := b1.isLt
  simp only [fieldBytes, List.cons.injEq, and_true]
  constructor <;> apply BitVec.eq_of_toNat_eq <;>
    simp only [fieldOfBytes, BitVec.extractLsb'_toNat, BitVec.toNat_append] <;>
    rw [← Nat.shiftLeft_add_eq_or_of_lt (by omega), Nat.shiftLeft_eq, Nat.shiftRight_eq_div_pow] <;>
    omega

/-- A decoded field always has the operand ranges of its encoding. -/
theorem refOfField_wellFormed (kind : StreamKind) (field : BitVec 16) :
    (refOfField kind field).wellFormed = true := by
  have hl := (field.extractLsb' 12 4).isLt
  have hd := (field.extractLsb' 0 12).isLt
  cases kind <;>
    simp [refOfField, Instr.wellFormed, refWellFormed, refLength, refDisp, Preset.block, Preset.image,
      -BitVec.extractLsb'_toNat] <;> omega

/-- What is decoded is well-formed. -/
theorem decode_wellFormed {place : DecodePlace} {bits : Bits} {i : Instr} {rest : List Byte}
    (h : decode place bits = .ok (i, rest)) : i.wellFormed = true := by
  cases place <;> cases bits <;> simp only [decode, reduceCtorEq] at h
  case ctrlWrite.ctrlWord w =>
    cases hc : decodeCommand w with
    | error e => simp [hc, Except.map] at h
    | ok j =>
      simp only [hc, Except.map, Except.ok.injEq, Prod.mk.injEq] at h
      obtain ⟨rfl, -⟩ := h
      rcases (decodeCommand_ok hc).2 with ⟨-, rfl⟩ | ⟨-, rfl⟩ <;> rfl
  case blockStart.stream bytes =>
    cases bytes <;> simp only [decodeFlag, reduceCtorEq, Except.ok.injEq, Prod.mk.injEq] at h
    obtain ⟨rfl, -⟩ := h
    rfl
  case slot.stream isRef kind bytes =>
    unfold decodeSlot at h
    split at h <;> simp only [reduceCtorEq, Except.ok.injEq, Prod.mk.injEq] at h
    · obtain ⟨rfl, -⟩ := h
      rfl
    · obtain ⟨rfl, -⟩ := h
      exact refOfField_wellFormed _ _

end Sys2Proof
end

