-- ==== Sys2Proof/Laws/Decoder.lean ====
section
/-! SUPPORT. The moves of the reference decoder (42_chunk_semantics.md): the byte-serial copy, one item, and
the decoder's part in executing a stream item. -/

namespace Sys2Proof.Machine

/-! ## The copy (R212, R215) -/

/-- The copy only appends. -/
theorem copyBytes_prefix (expect dist : Nat) : ∀ (k : Nat) (out : List Byte),
    out <+: copyBytes expect dist k out
  | 0, out => List.prefix_refl out
  | k + 1, out => by
    unfold copyBytes
    split_ifs with h
    · exact List.prefix_refl out
    · split
      · exact (List.prefix_append out _).trans (copyBytes_prefix expect dist k _)
      · exact List.prefix_refl out

/-- The copy never makes the output longer than N (70_reset_and_hazards.md R300). -/
theorem copyBytes_length_le (expect dist : Nat) : ∀ (k : Nat) (out : List Byte),
    (copyBytes expect dist k out).length ≤ max out.length expect
  | 0, out => le_max_left _ _
  | k + 1, out => by
    unfold copyBytes
    split_ifs with h
    · exact le_max_left _ _
    · split
      · refine (copyBytes_length_le expect dist k _).trans ?_
        simp only [List.length_append, List.length_cons, List.length_nil]
        omega
      · exact le_max_left _ _

/-- One byte of the copy, while it is not cut short and reads inside the output. -/
theorem copyBytes_succ {expect dist k : Nat} {out : List Byte} (h : out.length < expect) (hd : 1 ≤ dist)
    (hl : dist ≤ out.length) :
    copyBytes expect dist (k + 1) out =
      copyBytes expect dist k (out ++ [out[out.length - dist]'(by omega)]) := by
  rw [copyBytes, if_neg (by omega), List.getElem?_eq_getElem (by omega)]

/-- A full output is not copied to. -/
theorem copyBytes_full {expect dist k : Nat} {out : List Byte} (h : expect ≤ out.length) :
    copyBytes expect dist k out = out := by
  cases k <;> simp [copyBytes, h]

/-! ## What no move changes -/

@[simp] theorem Decoder.nextSlot_stream (d : Decoder) : d.nextSlot.stream = d.stream := by
  unfold Decoder.nextSlot; split <;> (try split) <;> rfl
@[simp] theorem Decoder.nextSlot_kind (d : Decoder) : d.nextSlot.kind = d.kind := by
  unfold Decoder.nextSlot; split <;> (try split) <;> rfl
@[simp] theorem Decoder.nextSlot_expect (d : Decoder) : d.nextSlot.expect = d.expect := by
  unfold Decoder.nextSlot; split <;> (try split) <;> rfl
@[simp] theorem Decoder.nextSlot_idx (d : Decoder) : d.nextSlot.idx = d.idx := by
  unfold Decoder.nextSlot; split <;> (try split) <;> rfl
@[simp] theorem Decoder.nextSlot_out (d : Decoder) : d.nextSlot.out = d.out := by
  unfold Decoder.nextSlot; split <;> (try split) <;> rfl

@[simp] theorem Decoder.afterChunk_stream (d : Decoder) : d.afterChunk.stream = d.stream := by
  unfold Decoder.afterChunk; split <;> simp [Decoder.finish]
@[simp] theorem Decoder.afterChunk_kind (d : Decoder) : d.afterChunk.kind = d.kind := by
  unfold Decoder.afterChunk; split <;> simp [Decoder.finish]
@[simp] theorem Decoder.afterChunk_expect (d : Decoder) : d.afterChunk.expect = d.expect := by
  unfold Decoder.afterChunk; split <;> simp [Decoder.finish]
@[simp] theorem Decoder.afterChunk_idx (d : Decoder) : d.afterChunk.idx = d.idx := by
  unfold Decoder.afterChunk; split <;> simp [Decoder.finish]
@[simp] theorem Decoder.afterChunk_out (d : Decoder) : d.afterChunk.out = d.out := by
  unfold Decoder.afterChunk; split <;> simp [Decoder.finish]

/-- A decoder that stands at no slot has no next slot to move to (log 19). -/
theorem Decoder.nextSlot_of_no_slot {d : Decoder} (h : ∀ f b, d.phase ≠ .slot f b) : d.nextSlot = d := by
  unfold Decoder.nextSlot
  split
  · rename_i f b hp; exact absurd hp (h f b)
  all_goals rfl

/-- Inversion of the guard: stopped at N, or the item's own effect. -/
theorem Decoder.unlessFull_cases (d : Decoder) (f : Decoder → Decoder) :
    (d.expect ≤ d.out.length ∧ d.unlessFull f = d.finish) ∨
      (d.out.length < d.expect ∧ d.unlessFull f = f d) := by
  unfold Decoder.unlessFull Decoder.full
  by_cases h : d.expect ≤ d.out.length
  · exact .inl ⟨h, by simp [h]⟩
  · exact .inr ⟨by omega, by simp [h]⟩

/-- Inversion of a back-reference: its error, or the copy. -/
theorem Decoder.copyRef_cases (d : Decoder) (len : Nat) (dist : Except DecodeError Nat) :
    (∃ e, dist = .error e ∧ d.copyRef len dist = (d.skip 2).fail e) ∨
      (∃ k, dist = .ok k ∧
        d.copyRef len dist = { d.skip 2 with out := copyBytes d.expect k len d.out }.afterChunk) := by
  cases dist with
  | error e => exact .inl ⟨e, rfl, rfl⟩
  | ok k => exact .inr ⟨k, rfl, rfl⟩

/-! ## Executing an item -/

/-- The instructions that stand in a stream. -/
def Instr.inStream : Instr → Bool
  | .flag _ => true
  | .lit _ => true
  | .refB _ _ => true
  | .refI _ _ => true
  | .find _ _ => false
  | .encode _ _ => false

/-- Executing a well-formed stream item is the decoder's item. -/
theorem exec_item {i : Instr} (hi : Instr.inStream i = true) (hw : i.wellFormed = true) (s : State) :
    exec i s = .next (s.setDecoder (s.decoder.item s.params.imageClamp i)) := by
  cases i <;> simp_all [exec, execFlag, execLit, execRefB, execRefI, Decoder.item, Instr.inStream,
    Instr.wellFormed]

/-- An item that a decoder runs stands in a stream and is well-formed. -/
theorem Decoder.move_run {d : Decoder} {i : Instr} (h : d.move = .run i) :
    Instr.inStream i = true ∧ i.wellFormed = true := by
  unfold Decoder.move at h
  split at h
  · cases h
  · rename_i place hp
    split_ifs at h
    split at h
    · rename_i j rest hd
      obtain rfl : j = i := by simpa using h
      refine ⟨?_, decode_wellFormed hd⟩
      unfold Decoder.place at hp
      split at hp <;> cases hp
      · cases hs : d.stream.drop d.idx <;>
          simp only [hs, decode, decodeFlag, reduceCtorEq, Except.ok.injEq, Prod.mk.injEq] at hd
        rw [← hd.1]
        rfl
      · simp only [decode, decodeSlot] at hd
        split at hd <;> simp only [reduceCtorEq, Except.ok.injEq, Prod.mk.injEq] at hd
        · rw [← hd.1]
          rfl
        · rw [← hd.1]
          cases d.kind <;> rfl
    · cases h

end Sys2Proof.Machine
end

