-- ==== Sys2Proof/Laws/Memory.lean ====
section
/-! SUPPORT. The laws of the byte memories: read after write, other addresses, the canonical form and the
bounds; and what the engine's byte write can do. -/

namespace Sys2Proof.Machine

/-- A read after a write to the same address gives the byte written. -/
@[simp] theorem Memory.get?_set_same (m : Memory) (a : Nat) (v : Byte) : (m.set a v).get? a = some v := by
  induction m with
  | nil => simp [Memory.set, Memory.get?]
  | cons x m ih =>
    obtain ⟨k, w⟩ := x
    unfold Memory.set
    split_ifs with h1 h2
    · simp [Memory.get?]
    · simp [Memory.get?]
    · simp only [Memory.get?, if_neg (Ne.symm h2), ih]

/-- A write leaves every other address alone. -/
theorem Memory.get?_set_other (m : Memory) (a b : Nat) (v : Byte) (h : b ≠ a) :
    (m.set a v).get? b = m.get? b := by
  induction m with
  | nil => simp [Memory.set, Memory.get?, Ne.symm h]
  | cons x m ih =>
    obtain ⟨k, w⟩ := x
    unfold Memory.set
    split_ifs with h1 h2
    · simp [Memory.get?, Ne.symm h]
    · subst h2; simp [Memory.get?, Ne.symm h]
    · simp only [Memory.get?, ih]

/-- Where a written byte can be: at the written address, or where one was listed before. -/
theorem Memory.mem_set {m : Memory} {a : Nat} {v : Byte} {x : Host.Cell} (h : x ∈ m.set a v) :
    x = (a, v) ∨ x ∈ m := by
  induction m with
  | nil => simpa [Memory.set] using h
  | cons y m ih =>
    obtain ⟨k, w⟩ := y
    unfold Memory.set at h
    split_ifs at h with h1 h2
    · simpa using h
    · rcases List.mem_cons.1 h with h | h
      · exact .inl h
      · exact .inr (List.mem_cons_of_mem _ h)
    · rcases List.mem_cons.1 h with h | h
      · exact .inr (h ▸ List.mem_cons_self ..)
      · exact (ih h).imp id (List.mem_cons_of_mem _)

/-- A write keeps the canonical form. -/
theorem Memory.set_wf {m : Memory} (h : m.wf) (a : Nat) (v : Byte) : (m.set a v).wf := by
  induction m with
  | nil => simp [Memory.set, Memory.wf]
  | cons x m ih =>
    obtain ⟨k, w⟩ := x
    obtain ⟨hx, hm⟩ := List.pairwise_cons.1 h
    unfold Memory.set
    split_ifs with h1 h2
    · refine List.pairwise_cons.2 ⟨fun y hy => ?_, h⟩
      rcases List.mem_cons.1 hy with rfl | hy
      · exact h1
      · exact h1.trans (hx y hy)
    · subst h2
      exact List.pairwise_cons.2 ⟨hx, hm⟩
    · refine List.pairwise_cons.2 ⟨fun y hy => ?_, ih hm⟩
      rcases Memory.mem_set hy with rfl | hy
      · exact show k < a by omega
      · exact hx y hy

/-- A write inside a bound keeps every listed address inside it. -/
theorem Memory.set_within {m : Memory} {size a : Nat} (h : ∀ x ∈ m, x.1 < size) (ha : a < size) (v : Byte) :
    ∀ x ∈ m.set a v, x.1 < size := by
  intro x hx
  rcases Memory.mem_set hx with rfl | hx
  · exact ha
  · exact h x hx

/-- After a write to OMEM, the byte written and every other byte. -/
@[simp] theorem State.omemByte_setOmem_set (s : State) (a x : Nat) (v : Byte) :
    (s.setOmem (s.omem.set a v)).omemByte x = if x = a then v else s.omemByte x := by
  by_cases h : x = a
  · subst h; simp [State.omemByte]
  · simp [State.omemByte, Memory.get?_set_other _ _ _ _ h, h]

/-- After a write to IMEM, the byte written and every other byte. -/
@[simp] theorem State.imemByte_setImem_set (s : State) (a x : Nat) (v : Byte) :
    (s.setImem (s.imem.set a v)).imemByte x = if x = a then v else s.imemByte x := by
  by_cases h : x = a
  · subst h; simp [State.imemByte]
  · simp [State.imemByte, Memory.get?_set_other _ _ _ _ h, h]

/-- Inversion of the engine's byte write: it succeeds exactly inside OMEM, and changes OMEM alone. -/
theorem State.writeOmem_ok_iff {s t : State} {a : Nat} {v : Byte} :
    s.writeOmem a v = .ok t ↔ a < s.params.omemSize ∧ t = s.setOmem (s.omem.set a v) := by
  unfold State.writeOmem
  split_ifs with h
  · simp [h, eq_comm]
  · simp [h]

/-- Inside OMEM the engine's byte write succeeds. -/
theorem State.writeOmem_of_lt {s : State} {a : Nat} (v : Byte) (h : a < s.params.omemSize) :
    s.writeOmem a v = .ok (s.setOmem (s.omem.set a v)) := State.writeOmem_ok_iff.2 ⟨h, rfl⟩

/-- The only fault of the engine's byte write. -/
theorem State.writeOmem_error {s : State} {a : Nat} {v : Byte} {e : Fault} (h : s.writeOmem a v = .error e) :
    s.params.omemSize ≤ a ∧ e = .omemRange := by
  unfold State.writeOmem at h
  split_ifs at h with ha
  exact ⟨by omega, by simpa [eq_comm] using h⟩

end Sys2Proof.Machine
end

