-- ==== Sys2Proof/Laws/Search.lean ====
section
/-! SUPPORT. What the search's functions do: occurrences and their monotonicity (40_match_search.md R142,
R145 item 1), and the loop's induction and what its result always is. -/

namespace Sys2Proof.Machine

/-- The candidate positions are those from WS to the cursor. -/
@[simp] theorem mem_positions {ws c p : Nat} : p ∈ positions ws c ↔ ws ≤ p ∧ p ≤ c := by
  simp only [positions, List.mem_range'_1]
  omega

/-- R142, as propositions. -/
theorem occurs_iff {rd : Nat → Byte} {c ws p m : Nat} :
    occurs rd c ws p m = true ↔ ws ≤ p ∧ p + m ≤ c ∧ ∀ k, k < m → rd (p + k) = rd (c + k) := by
  simp [occurs, and_assoc]

/-- Length 0 occurs at every position of the window and its end (R142). -/
theorem occurs_zero {rd : Nat → Byte} {c ws p : Nat} (h : ws ≤ p) (hc : p ≤ c) :
    occurs rd c ws p 0 = true := occurs_iff.2 ⟨h, by omega, fun k hk => absurd hk (by omega)⟩

/-- R145 item 1: where a length occurs, every shorter one does. -/
theorem occurs_mono {rd : Nat → Byte} {c ws p m m' : Nat} (h : occurs rd c ws p m = true) (hm : m' ≤ m) :
    occurs rd c ws p m' = true := by
  obtain ⟨h1, h2, h3⟩ := occurs_iff.1 h
  exact occurs_iff.2 ⟨h1, by omega, fun k hk => h3 k (by omega)⟩

/-- An occurrence depends only on the window's bytes and the bytes from the cursor on. -/
theorem occurs_congr {rd rd' : Nat → Byte} {c ws p m : Nat}
    (h : ∀ a, ws ≤ a → a < c + m → rd a = rd' a) : occurs rd c ws p m = occurs rd' c ws p m := by
  rw [Bool.eq_iff_iff, occurs_iff, occurs_iff]
  refine and_congr_right fun h1 => and_congr_right fun h2 => forall₂_congr fun k hk => ?_
  rw [h (p + k) (by omega) (by omega), h (c + k) (by omega) (by omega)]

/-- What Select finds occurs. -/
theorem select_occurs {rd : Nat → Byte} {rev : Bool} {c ws m p : Nat} (h : select rd rev c ws m = some p) :
    occurs rd c ws p m = true := by
  unfold select at h
  split_ifs at h
  · simpa using List.find?_some h
  · simpa using List.find?_some h

/-- Inversion of one iteration: the bound is lowered, or raised with the record kept or renewed. -/
theorem searchIter_cases (rd : Nat → Byte) (P : Preset) (c : Nat) (r : SearchRegs) :
    let mid := ((r.lo + r.hi) / 2).toNat
    (select rd P.searchReverse c r.ws mid = none ∧
      searchIter rd P c r = { r with mid := mid, hi := (mid : Int) - 1 }) ∨
    (∃ p, select rd P.searchReverse c r.ws mid = some p ∧
      ((r.recLen < mid ∧ searchIter rd P c r =
          { r with mid := mid, lo := (mid : Int) + 1, recPos := p, recLen := mid }) ∨
        (mid ≤ r.recLen ∧ searchIter rd P c r = { r with mid := mid, lo := (mid : Int) + 1 }))) := by
  intro mid
  unfold searchIter
  cases h : select rd P.searchReverse c r.ws mid with
  | none => exact .inl ⟨rfl, by simp [mid] at *; simp [h]⟩
  | some p =>
    refine .inr ⟨p, rfl, ?_⟩
    by_cases hlt : r.recLen < mid
    · exact .inl ⟨hlt, by simp [mid] at *; simp [h, hlt]⟩
    · exact .inr ⟨by omega, by simp [mid] at *; simp [h, hlt]⟩

/-- Induction over the loop: what one iteration keeps, the loop keeps. -/
theorem searchLoop_induct {rd : Nat → Byte} {P : Preset} {c : Nat} {Q : SearchRegs → Prop}
    (step : ∀ r, Q r → r.lo ≤ r.hi → Q (searchIter rd P c r)) :
    ∀ (k : Nat) (r : SearchRegs), Q r → Q (searchLoop rd P c k r)
  | 0, _, h => h
  | k + 1, r, h => by
    unfold searchLoop
    split_ifs with hle
    · exact searchLoop_induct step k _ (step r h hle)
    · exact h

/-- What every evaluation returns: the record is the start's (0, 0), or an occurrence in the window of a
length within the cap. -/
theorem findLongestMatch_record (rd : Nat → Byte) (P : Preset) (n c : Nat) :
    let r := findLongestMatch rd P n c
    r.ws = windowStart P c ∧ r.recLen ≤ lengthCap P n c ∧
      ((r.recLen = 0 ∧ r.recPos = 0) ∨
        (1 ≤ r.recLen ∧ occurs rd c (windowStart P c) r.recPos r.recLen = true)) := by
  let Q : SearchRegs → Prop := fun r =>
    r.ws = windowStart P c ∧ 0 ≤ r.lo ∧ r.hi ≤ (lengthCap P n c : Int) ∧ r.recLen ≤ lengthCap P n c ∧
      ((r.recLen = 0 ∧ r.recPos = 0) ∨
        (1 ≤ r.recLen ∧ occurs rd c (windowStart P c) r.recPos r.recLen = true))
  have hQ : Q (findLongestMatch rd P n c) := by
    refine searchLoop_induct (Q := Q) (fun r hr hle => ?_) _ _ ?_
    · obtain ⟨hws, hlo, hhi, hcap, hrec⟩ := hr
      have hmid : ((r.lo + r.hi) / 2).toNat ≤ lengthCap P n c := by omega
      rcases searchIter_cases rd P c r with ⟨-, h⟩ | ⟨p, hsel, ⟨hlt, h⟩ | ⟨-, h⟩⟩ <;> rw [h]
      · exact ⟨hws, hlo, by simp; omega, hcap, hrec⟩
      · exact ⟨hws, by simp; omega, hhi, hmid, .inr ⟨by simp; omega, hws ▸ select_occurs hsel⟩⟩
      · exact ⟨hws, by simp; omega, hhi, hcap, hrec⟩
    · exact ⟨rfl, le_refl _, le_refl _, Nat.zero_le _, .inl ⟨rfl, rfl⟩⟩
  exact ⟨hQ.1, hQ.2.2.2.1, hQ.2.2.2.2⟩

end Sys2Proof.Machine
end

