-- ==== Sys2Proof/Laws/Engine.lean ====
section
/-! SUPPORT. One inversion lemma per engine step: if it answers a state, this is the state. -/

namespace Sys2Proof.Machine

/-- Inversion of the search at CURSOR. -/
theorem searchAtCursor_ok {s : State} {P : Preset} {r : SearchRegs} (h : searchAtCursor s = .ok (P, r)) :
    s.preset = some P ∧ s.srcLen.toNat ≤ s.params.imemSize ∧ s.cursor.toNat < s.srcLen.toNat ∧
      r = findLongestMatch s.imemByte P s.srcLen.toNat s.cursor.toNat := by
  unfold searchAtCursor at h
  cases hP : s.preset with
  | none => simp [hP] at h
  | some Q =>
    simp only [hP] at h
    split_ifs at h with h1 h2
    simp only [Except.ok.injEq, Prod.mk.injEq] at h
    obtain ⟨rfl, rfl⟩ := h
    exact ⟨rfl, by omega, by omega, rfl⟩

/-- The search at CURSOR in its domain. -/
theorem searchAtCursor_eq {s : State} {P : Preset} (hP : s.preset = some P)
    (hn : s.srcLen.toNat ≤ s.params.imemSize) (hc : s.cursor.toNat < s.srcLen.toNat) :
    searchAtCursor s = .ok (P, findLongestMatch s.imemByte P s.srcLen.toNat s.cursor.toNat) := by
  simp [searchAtCursor, hP, Nat.not_lt.2 hn, Nat.not_le.2 hc]

/-- Inversion of FIND's step (40_match_search.md R149). -/
theorem findStep_ok {s t : State} (h : findStep s = .ok t) :
    ∃ P r, searchAtCursor s = .ok (P, r) ∧
      t = complete { s with
        search := r, matchPos := BitVec.ofNat 24 r.recPos, matchLen := BitVec.ofNat 5 r.recLen } := by
  unfold findStep at h
  split at h
  · cases h
  · rename_i P r hs
    exact ⟨P, r, hs, by simpa [eq_comm] using h⟩

/-- Inversion of the block-start step (41_greedy_encoder.md R172, R180). -/
theorem blockStep_ok {s t : State} (h : blockStep s = .ok t) :
    (s.cursor.toNat < s.srcLen.toNat ∧ s.outLen.toNat < s.params.omemSize ∧
      t = { s.setOmem (s.omem.set s.outLen.toNat 0) with
        flagPtr := s.outLen
        outLen := BitVec.ofNat 25 (s.outLen.toNat + 1)
        spEnc := BitVec.ofNat 25 (s.spEnc.toNat + 1)
        flagAcc := 0
        chunkIdx := 0
        phase := .encChunk }) ∨
    (s.srcLen.toNat ≤ s.cursor.toNat ∧ t = complete s) := by
  unfold blockStep at h
  split_ifs at h with hc
  · split at h
    · cases h
    · rename_i s1 hw
      obtain ⟨hlt, rfl⟩ := State.writeOmem_ok_iff.1 hw
      exact .inl ⟨hc, hlt, (Except.ok.inj h).symm⟩
  · exact .inr ⟨by omega, by simpa [eq_comm] using h⟩

/-- Inversion of the flush step (R179). -/
theorem flushStep_ok {s t : State} (h : flushStep s = .ok t) :
    s.flagPtr.toNat < s.params.omemSize ∧
      t = { s.setOmem (s.omem.set s.flagPtr.toNat s.flagAcc) with phase := .encBlock } := by
  unfold flushStep at h
  split at h
  · cases h
  · rename_i s1 hw
    obtain ⟨hlt, rfl⟩ := State.writeOmem_ok_iff.1 hw
    exact ⟨hlt, (Except.ok.inj h).symm⟩

/-- Inversion of a slot after the input is exhausted (R173). -/
theorem exhaustedStep_ok {s t : State} (h : exhaustedStep s = .ok t) :
    ∃ P, s.preset = some P ∧
      ((P.zeroFill = true ∧ s.outLen.toNat < s.params.omemSize ∧
        t = advanceChunk { s.setOmem (s.omem.set s.outLen.toNat 0) with
          outLen := BitVec.ofNat 25 (s.outLen.toNat + 1) }) ∨
        (P.zeroFill = false ∧ t = advanceChunk s)) := by
  unfold exhaustedStep at h
  cases hP : s.preset with
  | none => simp [hP] at h
  | some P =>
    refine ⟨P, rfl, ?_⟩
    simp only [hP] at h
    split_ifs at h with hz
    · split at h
      · cases h
      · rename_i s1 hw
        obtain ⟨hlt, rfl⟩ := State.writeOmem_ok_iff.1 hw
        exact .inl ⟨hz, hlt, (Except.ok.inj h).symm⟩
    · exact .inr ⟨by simpa using hz, by simpa [eq_comm] using h⟩

/-- Inversion of an emitted back-reference (R175). -/
theorem emitRef_ok {P : Preset} {p len : Nat} {s t : State} (h : emitRef P p len s = .ok t) :
    let field := refField len (s.cursor.toNat - p - P.posSubtract)
    s.outLen.toNat + 1 < s.params.omemSize ∧
      t = { countChunk len 2 (s.setOmem ((s.omem.set s.outLen.toNat (field.extractLsb' 8 8)).set
              (s.outLen.toNat + 1) (field.extractLsb' 0 8))) with
            flagAcc := accWithRef s.flagAcc s.chunkIdx } := by
  intro field
  unfold emitRef at h
  simp only at h
  split at h
  · cases h
  · rename_i s1 hw1
    obtain ⟨h1, rfl⟩ := State.writeOmem_ok_iff.1 hw1
    split at h
    · cases h
    · rename_i s2 hw2
      obtain ⟨h2, rfl⟩ := State.writeOmem_ok_iff.1 hw2
      exact ⟨by simpa using h2, by simpa [field, State.setOmem, eq_comm] using h⟩

/-- Inversion of an emitted literal (R176). -/
theorem emitLit_ok {s t : State} (h : emitLit s = .ok t) :
    s.outLen.toNat < s.params.omemSize ∧
      t = countChunk 1 1 (s.setOmem (s.omem.set s.outLen.toNat (s.imemByte s.cursor.toNat))) := by
  unfold emitLit at h
  split at h
  · cases h
  · rename_i s1 hw
    obtain ⟨hlt, rfl⟩ := State.writeOmem_ok_iff.1 hw
    exact ⟨hlt, by simpa [eq_comm] using h⟩

/-- Inversion of the selector (R174): a back-reference or a literal was emitted, then the trace and the
index moved on. -/
theorem selectorStep_ok {s t : State} (h : selectorStep s = .ok t) :
    ∃ P r s1, searchAtCursor s = .ok (P, r) ∧ t = advanceChunk (updateTrace s1) ∧
      ((2 < r.recLen ∧ emitRef P r.recPos r.recLen (s.setSearch r) = .ok s1) ∨
        (r.recLen ≤ 2 ∧ emitLit (s.setSearch r) = .ok s1)) := by
  unfold selectorStep at h
  split at h
  · cases h
  · rename_i P r hs
    split at h
    · cases h
    · rename_i s1 he
      refine ⟨P, r, s1, hs, by simpa [eq_comm] using h, ?_⟩
      unfold emitChunk at he
      split_ifs at he with hl
      · exact .inl ⟨hl, he⟩
      · exact .inr ⟨by omega, he⟩

/-- Inversion of the trace update (R177). -/
theorem updateTrace_cases (s : State) :
    (newPeak s.cursor.toNat s.outLen.toNat s.bestSavings.toNat = true ∧
      updateTrace s = { s with
        bestSavings := BitVec.ofNat 24 (savings s.cursor.toNat s.outLen.toNat).toNat
        peakCursor := s.cursor, spDec := 0, spEnc := 0 }) ∨
    (newPeak s.cursor.toNat s.outLen.toNat s.bestSavings.toNat = false ∧ updateTrace s = s) := by
  unfold updateTrace
  split_ifs with h
  · exact .inl ⟨h, rfl⟩
  · exact .inr ⟨by simpa using h, rfl⟩

/-- Inversion of the index advance (R178). -/
theorem advanceChunk_cases (s : State) :
    (∃ h : s.chunkIdx.val < 7, advanceChunk s = { s with chunkIdx := ⟨s.chunkIdx.val + 1, by omega⟩ }) ∨
    (s.chunkIdx.val = 7 ∧ advanceChunk s = { s with phase := .encFlush }) := by
  unfold advanceChunk
  split_ifs with h
  · exact .inl ⟨h, rfl⟩
  · exact .inr ⟨by omega, rfl⟩

/-- Inversion of the engine's outcome. -/
theorem engineStep_next_iff {s t : State} : engineStep s = .next t ↔ engineMove s = .ok t := by
  unfold engineStep
  cases engineMove s <;> simp

/-- The engine's step is never a refusal. -/
theorem engineStep_not_refused (s : State) (r : Refusal) : engineStep s ≠ .refused r := by
  unfold engineStep
  cases engineMove s <;> simp

/-- An idle engine's step changes nothing. -/
theorem engineStep_idle {s : State} (h : s.phase = .idle) : engineStep s = .next s := by
  simp [engineStep, engineMove, h]

/-- Runs of the engine compose. -/
theorem engineRun_add (j k : Nat) (s t : State) (h : engineRun j s = .next t) :
    engineRun (j + k) s = engineRun k t := by
  induction j generalizing s with
  | zero =>
    simp only [engineRun, Host.Outcome.next.injEq] at h
    simp [h]
  | succ j ih =>
    rw [show j + 1 + k = (j + k) + 1 by omega]
    cases hm : engineMove s with
    | error e => simp [engineRun, hm] at h
    | ok s1 =>
      simp only [engineRun, hm] at h ⊢
      exact ih s1 h

end Sys2Proof.Machine
end

