-- ==== Sys2Proof/Laws/PerInstr.lean ====
section
/-! SUPPORT. Statements made per instruction (LAWS.json). EncodedWidth: an instruction's encoding has as
many bits as its row of the opcode table. -/

namespace Sys2Proof.Laws.EncodedWidth

/-- The bits of an instruction's row in the opcode table (30_encoding.md R113). -/
def tableWidth : Instr → Nat
  | .flag _ => 8
  | .lit _ => 8
  | .refB _ _ => 16
  | .refI _ _ => 16
  | .find _ _ => 32
  | .encode _ _ => 32

/-- The number of bits that an encoding has. -/
def bitCount : Bits → Nat
  | .ctrlWord _ => 32
  | .stream bytes => 8 * bytes.length

/-- The encoding has its row's width. -/
def Statement (i : Instr) : Prop := bitCount (Sys2Proof.encode i) = tableWidth i

theorem flag (f : Byte) : Statement (.flag f) := rfl
theorem lit (b : Byte) : Statement (.lit b) := rfl
theorem refB (len dist : Nat) : Statement (.refB len dist) := rfl
theorem refI (len dist : Nat) : Statement (.refI len dist) := rfl
theorem find (mode : BitVec 2) (ie : Bool) : Statement (.find mode ie) := rfl
theorem encode (mode : BitVec 2) (ie : Bool) : Statement (.encode mode ie) := rfl

end Sys2Proof.Laws.EncodedWidth
end

