-- ==== Sys2Proof/Laws/Step.lean ====
section
/-! SUPPORT. What one step can do: one lemma per agent, and the case split over the agents that every
invariant is proved by. -/

namespace Sys2Proof.Machine

/-- A step is the move of the agent whose turn it is. -/
theorem step_eq (s : State) :
    step s = match agentAction s.turn (s.setTurns s.turns.tail) with
      | .run i t => exec i t
      | .outcome o => o := rfl

/-- The engine's turn. -/
theorem step_engine {s : State} (h : s.turn = .engine) : step s = engineStep (s.setTurns s.turns.tail) := by
  simp [step, nextAction, agentAction, h]

/-- The decoder's turn: its own step, whether it runs an item or not. -/
theorem step_decoder {s : State} (h : s.turn = .decoder) :
    step s = .next ((s.setTurns s.turns.tail).setDecoder (s.decoder.step s.params.imageClamp)) := by
  simp only [step, nextAction, agentAction, h, decoderAction, State.setTurns_decoder, Decoder.step]
  cases hm : s.decoder.move with
  | rest d => rfl
  | run i =>
    obtain ⟨hi, hw⟩ := Decoder.move_run hm
    simpa using exec_item hi hw (s.setTurns s.turns.tail)

/-- The host's turn with no operation left. -/
theorem step_host_nil {s : State} (h : s.turn = .host) (ho : s.hostOps = []) :
    step s = .next (s.setTurns s.turns.tail) := by
  simp [step, nextAction, agentAction, h, hostAction, ho]

/-- The host's turn with a command to issue. -/
theorem step_host_command {s : State} {op : HostOp} {ops : List HostOp} {i : Instr} (h : s.turn = .host)
    (ho : s.hostOps = op :: ops) (hi : op.command? s.params = some i) :
    step s = exec i ((s.setTurns s.turns.tail).setHostOps ops) := by
  simp [step, nextAction, agentAction, h, hostAction, ho, hi]

/-- The host's turn with any other operation. -/
theorem step_host_other {s : State} {op : HostOp} {ops : List HostOp} (h : s.turn = .host)
    (ho : s.hostOps = op :: ops) (hi : op.command? s.params = none) :
    step s = hostStep op ((s.setTurns s.turns.tail).setHostOps ops) := by
  simp [step, nextAction, agentAction, h, hostAction, ho, hi]

/-- A command that a host operation issues is FIND or ENCODE. -/
theorem HostOp.command?_cases {p : Params} {op : HostOp} {i : Instr} (h : op.command? p = some i) :
    ∃ mode ie, i = .find mode ie ∨ i = .encode mode ie := by
  unfold HostOp.command? at h
  split at h
  · cases h
  · rename_i w _
    split at h
    · rename_i j rest hd
      obtain rfl : j = i := by simpa using h
      simp only [Sys2Proof.decode] at hd
      cases hc : decodeCommand w with
      | error e => simp [hc, Except.map] at hd
      | ok k =>
        simp only [hc, Except.map, Except.ok.injEq, Prod.mk.injEq] at hd
        obtain ⟨rfl, -⟩ := hd
        rcases (decodeCommand_ok hc).2 with ⟨-, rfl⟩ | ⟨-, rfl⟩
        · exact ⟨_, _, .inl rfl⟩
        · exact ⟨_, _, .inr rfl⟩
    · cases h

/-- Inversion of a step that answers a state: an idle host, a command's START, another host operation, an
engine step, or a decoder step. -/
theorem step_next_cases {s t : State} (h : step s = .next t) :
    t = s.setTurns s.turns.tail ∨
    (∃ op ops mode ie, s.hostOps = op :: ops ∧
      (t = startCommand opFind mode ie ((s.setTurns s.turns.tail).setHostOps ops) ∨
        t = startCommand opEncode mode ie ((s.setTurns s.turns.tail).setHostOps ops))) ∨
    (∃ op ops, s.hostOps = op :: ops ∧ hostStep op ((s.setTurns s.turns.tail).setHostOps ops) = .next t) ∨
    engineStep (s.setTurns s.turns.tail) = .next t ∨
    t = (s.setTurns s.turns.tail).setDecoder (s.decoder.step s.params.imageClamp) := by
  cases ha : s.turn with
  | host =>
    cases ho : s.hostOps with
    | nil =>
      rw [step_host_nil ha ho] at h
      exact .inl (by simpa [eq_comm] using h)
    | cons op ops =>
      cases hc : op.command? s.params with
      | none =>
        rw [step_host_other ha ho hc] at h
        exact .inr (.inr (.inl ⟨op, ops, rfl, h⟩))
      | some i =>
        rw [step_host_command ha ho hc] at h
        obtain ⟨mode, ie, rfl | rfl⟩ := HostOp.command?_cases hc
        · exact .inr (.inl ⟨op, ops, mode, ie, rfl, .inl (by simpa [exec, execFind, eq_comm] using h)⟩)
        · exact .inr (.inl ⟨op, ops, mode, ie, rfl, .inr (by simpa [exec, execEncode, eq_comm] using h)⟩)
  | engine =>
    rw [step_engine ha] at h
    exact .inr (.inr (.inr (.inl h)))
  | decoder =>
    rw [step_decoder ha] at h
    exact .inr (.inr (.inr (.inr (by simpa [eq_comm] using h))))

end Sys2Proof.Machine
end

