-- ==== Sys2Proof/Tests/Slice0.lean ====
section
/-! SUPPORT. Tests with expected values from the spec's examples (30_encoding.md, 95_test_vectors.md), and
one witness for the hypotheses of each obligation. -/

namespace Sys2Proof.Machine

/-! ## Decoding: words written out from the fields of 30_encoding.md -/

/-- R101's example. -/
theorem test_decode_flag : decode .blockStart (.stream [0b00011100#8, 0x00#8]) = .ok (.flag 0x1C, [0x00#8]) := by
  decide

/-- R102's example. -/
theorem test_decode_lit : decode (.slot false .block) (.stream [0b01100001#8]) = .ok (.lit 0x61, []) := by decide

/-- V-C1: field 0000 000000000010 is the smallest REF.B that the engine emits. -/
theorem test_decode_refB_smallest :
    decode (.slot true .block) (.stream [0b00000000#8, 0b00000010#8]) = .ok (.refB 3 3, []) := by decide

/-- V-C1: field 1111 111111111111 is REF.B 18, 4096. -/
theorem test_decode_refB_largest :
    decode (.slot true .block) (.stream [0b11111111#8, 0b11111111#8, 0x5A#8]) = .ok (.refB 18 4096, [0x5A#8]) := by
  decide

/-- R104's example: field 0011 000000000011 is REF.I 6, 6. -/
theorem test_decode_refI :
    decode (.slot true .image) (.stream [0b00110000#8, 0b00000011#8]) = .ok (.refI 6 6, []) := by decide

/-- V-C1: REF.I 18, 4098. -/
theorem test_decode_refI_largest :
    decode (.slot true .image) (.stream [0b11111111#8, 0b11111111#8]) = .ok (.refI 18 4098, []) := by decide

/-- Which nibble is which (R103): field 1010 000100100011 has LEN 10 and DISP 0x123. -/
theorem test_decode_ref_fields :
    decode (.slot true .block) (.stream [0b10100001#8, 0b00100011#8]) = .ok (.refB 13 292, []) := by decide

/-- R108: S = 1, OP = 01, MODE = 01, IE = 1. -/
theorem test_decode_find :
    decode .ctrlWrite (.ctrlWord 0b00000000000000000000000100010011#32) = .ok (.find 1 true, []) := by decide

/-- R108's example 0x0000_0115. -/
theorem test_decode_encode :
    decode .ctrlWrite (.ctrlWord 0b00000000000000000000000100010101#32) = .ok (.encode 1 true, []) := by decide

/-- R109: reserved CTRL bits are ignored on write. -/
theorem test_decode_ignores_reserved_bits :
    decode .ctrlWrite (.ctrlWord 0b11111111111111111111111011001101#32) = .ok (.encode 0 false, []) := by decide

/-- R109: OP 0 and 3 are no command, and START = 0 is none. -/
theorem test_decode_rejects :
    decode .ctrlWrite (.ctrlWord 0x1#32) = .error .reservedOp ∧
    decode .ctrlWrite (.ctrlWord 0x7#32) = .error .reservedOp ∧
    decode .ctrlWrite (.ctrlWord 0x4#32) = .error .notACommand ∧
    decode (.slot true .block) (.stream [0x00#8]) = .error .truncated ∧
    decode .blockStart (.stream []) = .error .truncated := by decide

/-- V-C1's byte pairs, encoded. -/
theorem test_encode_references :
    encode (.refB 3 3) = .stream [0x00#8, 0x02#8] ∧ encode (.refB 18 24) = .stream [0xF0#8, 0x17#8] ∧
    encode (.refI 3 3) = .stream [0x00#8, 0x00#8] ∧ encode (.refI 18 4098) = .stream [0xFF#8, 0xFF#8] := by decide

/-- R108's examples, encoded. -/
theorem test_encode_commands :
    encode (.encode 0 false) = .ctrlWord 0x5#32 ∧ encode (.encode 1 true) = .ctrlWord 0x115#32 ∧
    encode (.find 0 false) = .ctrlWord 0x3#32 := by decide

/-- V-C2's first three flag bytes. -/
theorem test_flag_auto :
    flagByteOf [.lit 1, .lit 2, .lit 3, .refB 3 3, .refB 3 3, .refB 3 3, .fill, .fill] = 0x1C#8 ∧
    flagByteOf [.lit 1, .lit 2, .lit 3, .lit 4, .lit 5, .lit 6, .lit 7, .refB 3 3] = 0x01#8 ∧
    flagByteOf [.lit 1, .refI 3 3] = 0x40#8 := by decide

/-- One table word of each width that has a place (log 11). -/
theorem test_table_words :
    decodeTableWord 8 0x1C = some (.flag 0x1C) ∧ decodeTableWord 16 0x3005 = some (.refB 6 6) ∧
    decodeTableWord 32 0x115 = some (.encode 1 true) ∧ decodeTableWord 32 0x7 = none := by decide

/-! ## WellFormed: each check refuses an ill-formed term -/

/-- R111: LEN below 3 and above 18, and a displacement outside 0 to 4095, in both kinds. -/
theorem test_wellFormed_refuses :
    (Instr.refB 2 5).wellFormed = false ∧ (Instr.refB 19 5).wellFormed = false ∧
    (Instr.refB 3 0).wellFormed = false ∧ (Instr.refB 3 4097).wellFormed = false ∧
    (Instr.refI 2 5).wellFormed = false ∧ (Instr.refI 19 5).wellFormed = false ∧
    (Instr.refI 3 2).wellFormed = false ∧ (Instr.refI 3 4099).wellFormed = false := by decide

/-- R106's limits are well-formed. -/
theorem test_wellFormed_admits :
    (Instr.refB 3 1).wellFormed = true ∧ (Instr.refB 18 4096).wellFormed = true ∧
    (Instr.refI 3 3).wellFormed = true ∧ (Instr.refI 18 4098).wellFormed = true := by decide

/-! ## Sample states -/

/-- What holds of the next state, if there is one. -/
def answers (o : Host.Outcome State Fault Refusal) (p : State → Bool) : Bool :=
  match o with
  | .next t => p t
  | .fault _ => false
  | .refused _ => false

/-- Written bytes from address 0. -/
def bytesFrom (a : Nat) : List Byte → Memory
  | [] => []
  | b :: rest => (a, b) :: bytesFrom (a + 1) rest

/-- An idle engine with SRC_LEN and CURSOR set, and eight 'a' in IMEM. -/
def idleAt (n c : Nat) : State :=
  { State.reset with
    srcLen := BitVec.ofNat 24 n, cursor := BitVec.ofNat 24 c, imem := bytesFrom 0 (List.replicate 8 0x61#8) }

/-- The same machine inside an ENCODE of the eight 'a'. -/
def encAt (phase : Phase) (mode : BitVec 2) (c o : Nat) (k : Fin 8) : State :=
  { idleAt 8 c with
    ctrl := { op := 2, mode := mode, ie := true }, status := Status.accepted, phase := phase
    outLen := BitVec.ofNat 25 o, chunkIdx := k }

/-- The same machine inside a FIND. -/
def findAt (mode : BitVec 2) (c : Nat) : State :=
  { idleAt 8 c with ctrl := { op := 1, mode := mode, ie := true }, status := Status.accepted, phase := .findRun }

/-- A decoder in slot `b` of a block with flag byte `f`, about to read the start of `stream`. -/
def slotAt (kind : StreamKind) (f : Byte) (b : Fin 8) (out stream : List Byte) (n : Nat) : State :=
  { State.reset with
    decoder := { kind := kind, stream := stream, idx := 0, out := out, expect := n, phase := .slot f b } }

/-- A host with one operation to do. -/
def hostAt (op : HostOp) : State := { State.reset with hostOps := [op] }

/-! ## One step of each instruction -/

/-- V-D1, V-C2: FLAG reads its byte and opens slot 0. -/
theorem test_exec_flag :
    answers (exec (.flag 0x20) { State.reset with decoder := Decoder.start .block [0x20, 0x61] 7 })
      (fun t => t.decoder.phase = .slot 0x20 0 && t.decoder.idx == 1) = true := by decide

/-- V-D6: LIT 'A' is the whole output, so the decoder stops before the fillers. -/
theorem test_exec_lit :
    answers (exec (.lit 0x41) (slotAt .block 0x00 0 [] [0x41, 0, 0] 1))
      (fun t => t.decoder.phase = .done && t.decoder.out == [0x41]) = true := by decide

/-- V-D1: REF.B 5, 2 after "ab" overlaps itself. -/
theorem test_exec_refB_overlaps :
    answers (exec (.refB 5 2) (slotAt .block 0x20 2 [0x61, 0x62] [0x20, 0x01] 7))
      (fun t => t.decoder.out == [0x61, 0x62, 0x61, 0x62, 0x61, 0x62, 0x61]) = true := by decide

/-- V-D3: a distance beyond the output. -/
theorem test_exec_refB_range :
    answers (exec (.refB 3 3) (slotAt .block 0x20 2 [0x61, 0x62] [0x00, 0x02] 5))
      (fun t => t.decoder.phase = .failed .invalidBackReference) = true := by decide

/-- V-D7, compat: REF.I 3, 5 after "xyz" is clamped to distance 2. -/
theorem test_exec_refI_clamps :
    answers (exec (.refI 3 5) (slotAt .image 0x10 3 [0x78, 0x79, 0x7A] [0x00, 0x02] 6))
      (fun t => t.decoder.out == [0x78, 0x79, 0x7A, 0x79, 0x7A, 0x79]) = true := by decide

/-- V-D8: no clamp with fewer than 2 bytes written. -/
theorem test_exec_refI_range :
    answers (exec (.refI 3 3) (slotAt .image 0x40 1 [0x78] [0x00, 0x00] 4))
      (fun t => t.decoder.phase = .failed .invalidBackReference) = true := by decide

/-- V-X1: FIND with SRC_LEN 4 and CURSOR 4 is refused with STATUS 0x46. -/
theorem test_exec_find_cursor_range :
    answers (exec (.find 0 false) (idleAt 4 4)) (fun t => t.status.word == 0x46#32) = true := by decide

/-- V-F3's data at c = 1: FIND's engine step finds (0, 1), with no overlap, and ends with STATUS 0x02. -/
theorem test_find_step :
    answers (engineStep (findAt 1 1))
      (fun t => t.matchPos == 0 && t.matchLen == 1 && t.status.word == 0x2#32) = true := by decide +kernel

/-- V-X1: ENCODE with SRC_LEN 50 is accepted, and with 51 it is refused with STATUS 0x56. -/
theorem test_exec_encode_capacity :
    answers (exec (.encode 0 false) (idleAt 50 0)) (fun t => t.status.word == 0x1#32 && t.phase = .encBlock) = true ∧
    answers (exec (.encode 0 false) (idleAt 51 0)) (fun t => t.status.word == 0x56#32) = true := by decide

/-- V-E8, V-E1 step 5: after three literals of a run, REF.B 3, 3 is emitted as `00 02`. -/
theorem test_encode_chunk_step :
    answers (engineStep (encAt .encChunk 0 3 4 3))
      (fun t => t.cursor == 6 && t.outLen == 6 && t.flagAcc == 0x10#8 && t.omem == [(4, 0x00#8), (5, 0x02#8)] &&
        t.chunkIdx == 4) = true := by decide +kernel

/-! ## The search, the registers, the codecs -/

/-- V-F1, V-S5: IMEM = "abcXabcYabc", c = 8, both presets. -/
theorem test_search_ties :
    let rd := byteAt [0x61, 0x62, 0x63, 0x58, 0x61, 0x62, 0x63, 0x59, 0x61, 0x62, 0x63]
    ((findLongestMatch rd Preset.block 11 8).recPos, (findLongestMatch rd Preset.block 11 8).recLen) = (0, 3) ∧
    ((findLongestMatch rd Preset.image 11 8).recPos, (findLongestMatch rd Preset.image 11 8).recLen) = (4, 3) := by
  decide +kernel

/-- R40's two words. -/
theorem test_param : paramWord 0 = 0x10000129#32 ∧ paramWord 1 = 0x10020127#32 ∧ paramWord 2 = 0#32 := by decide

/-- R33: writing 2 clears DONE and keeps ERR and ERRCODE. -/
theorem test_w1c : ((Status.refused 4).w1c 0x2#32).word = 0x44#32 := by decide

/-- R72: a word of the block header is little-endian. -/
theorem test_little_endian : leBytes 3 0x123456 = [0x56, 0x34, 0x12] ∧ leNat [0x56, 0x34, 0x12] = 0x123456 := by
  decide

/-- V-S4: a padding byte of 0x00 makes decompressImage fail with InvalidHeader. -/
theorem test_image_padding :
    decompressImage { blockTag := 0, padBasis := .stream, fallbackPad := 0, imageClamp := .compat }
      [0x41, 0x06, 0x60, 0x03, 0x30, 0, 0, 0, 0, 0, 0x1C, 0x00, 0xFF, 0x14, 0, 0, 0x0A, 1, 0, 0, 0] =
      .error (.decode .invalidHeader) := by decide +kernel

/-- The memory written out of order is canonical, and a second write replaces the first. -/
theorem test_memory_canonical :
    Memory.set (Memory.set (Memory.set [] 5 1) 3 2) 5 9 = [(3, 2#8), (5, 9#8)] := by decide

/-- V-X1 through step: a FIND word placed after reset runs next, and CURSOR = SRC_LEN = 0 is refused. -/
theorem test_withFetchWord :
    answers (step (State.reset.withFetchWord 32 0x3)) (fun t => t.status.word == 0x46#32) = true ∧
    answers (step (State.reset.withFetchWord 8 0x1C)) (fun t => t.decoder.phase = .slot 0x1C 0) = true ∧
    answers (step (State.reset.withFetchWord 16 0x3005))
      (fun t => t.decoder.phase = .failed .invalidBackReference) = true := by decide

/-! ## Sample states meet the invariant -/

/-- An ENCODE sample meets the invariant where its phase's part does. -/
theorem encAt_inv {ph : Phase} {mode : BitVec 2} {c o : Nat} {k : Fin 8} (hp : ph ≠ .idle)
    (h : (encAt ph mode c o k).RunInv) : (encAt ph mode c o k).Inv where
  params := (by decide : paramsLegal paramsDefault)
  imemWf := (by decide : (idleAt 8 0).imem.wf)
  omemWf := (by decide : Memory.wf [])
  imemIn := (by decide : (idleAt 8 0).imem.within 64)
  omemIn := (by decide : Memory.within [] 64)
  busyPhase := ⟨fun _ => hp, fun _ => rfl⟩
  busyClean := fun _ => rfl
  codeLegal := (by decide : Status.accepted.errcode.toNat ≤ 5)
  matchLenIn := (by decide : State.reset.matchLen.toNat ≤ 18)
  decoderIn := (by decide : Decoder.idle.out.length ≤ Decoder.idle.expect)
  run := h

/-- At a block's start with input left. -/
theorem inv_block : (encAt .encBlock 0 0 0 0).Inv :=
  encAt_inv (by decide) ⟨Preset.block, ⟨rfl, rfl, by decide, by decide, by decide, by decide, by decide, by decide,
    by decide⟩, by unfold BoundaryBound; decide⟩

/-- At the end of the run, with the output as long as it can get. -/
theorem inv_block_end : (encAt .encBlock 0 8 16 0).Inv :=
  encAt_inv (by decide) ⟨Preset.block, ⟨rfl, rfl, by decide, by decide, by decide, by decide, by decide, by decide,
    by decide⟩, by unfold BoundaryBound; decide⟩

/-- Before a slot whose match has length 2, the longest that is emitted as a literal. -/
theorem inv_short : (encAt .encChunk 0 2 3 2).Inv :=
  encAt_inv (by decide) ⟨Preset.block, ⟨rfl, rfl, by decide, by decide, by decide, by decide, by decide, by decide,
    by decide⟩, by unfold InBlockBound; decide, by decide⟩

/-- Before a slot whose match has length 3, the shortest that is emitted as a reference. -/
theorem inv_long : (encAt .encChunk 0 3 4 3).Inv :=
  encAt_inv (by decide) ⟨Preset.block, ⟨rfl, rfl, by decide, by decide, by decide, by decide, by decide, by decide,
    by decide⟩, by unfold InBlockBound; decide, by decide⟩

/-- Before the eighth slot, the input exhausted, BLOCK. -/
theorem inv_exhausted_block : (encAt .encChunk 0 8 15 7).Inv :=
  encAt_inv (by decide) ⟨Preset.block, ⟨rfl, rfl, by decide, by decide, by decide, by decide, by decide, by decide,
    by decide⟩, by unfold InBlockBound; decide, by decide⟩

/-- The second slot of a block, the input exhausted, IMAGE. -/
theorem inv_exhausted_image : (encAt .encChunk 1 8 9 1).Inv :=
  encAt_inv (by decide) ⟨Preset.image, ⟨rfl, rfl, by decide, by decide, by decide, by decide, by decide, by decide,
    by decide⟩, by unfold InBlockBound; decide, by decide⟩

/-- Before the flush of a full block. -/
theorem inv_flush : (encAt .encFlush 0 8 16 7).Inv :=
  encAt_inv (by decide) ⟨Preset.block, ⟨rfl, rfl, by decide, by decide, by decide, by decide, by decide, by decide,
    by decide⟩, by unfold BoundaryBound; decide, by decide⟩

/-- In a FIND at the last input byte. -/
theorem inv_find : (findAt 1 7).Inv where
  params := by decide
  imemWf := by decide
  omemWf := by decide
  imemIn := by decide
  omemIn := by decide
  busyPhase := by decide
  busyClean := fun _ => rfl
  codeLegal := by decide
  matchLenIn := by decide
  decoderIn := by decide
  run := ⟨rfl, rfl, by decide, by decide⟩

/-! ## Witnesses: hypotheses of the obligations, in their order -/

/-- PowerUpLeavesResetValues: a power-up in the middle of a command. -/
theorem witness_PowerUp : ∃ t, hostStep .powerUp (encAt .encChunk 0 3 4 3) = .next t := ⟨_, rfl⟩

/-- StepKeepsInvariant: a step of the engine. -/
theorem witness_StepKeepsInvariant :
    (encAt .encChunk 0 3 4 3).Inv ∧ answers (step (encAt .encChunk 0 3 4 3)) (fun _ => true) = true :=
  ⟨inv_long, by decide +kernel⟩

/-- DecodeOfEncodeIsTheInstruction, each clause, at the operands' limits. -/
theorem witness_DecodeOfEncode :
    (Instr.encode 3 true).wellFormed = true ∧ encode (.encode 3 true) = .ctrlWord 0x135#32 ∧
    (Instr.refI 18 4098).wellFormed = true ∧ encode (.refI 18 4098) = .stream [0xFF#8, 0xFF#8] ∧
    (Instr.lit 0xFF).wellFormed = true := by decide

/-- FlagByteBitsNameTheReferences: a full block's last slot, and a slot that a short block lacks. -/
theorem witness_FlagByteBits :
    [Instr.lit 1, .lit 2, .lit 3, .lit 4, .lit 5, .lit 6, .lit 7, .refB 3 3].length ≤ 8 ∧ 7 < 8 ∧
    [Instr.lit 1].length ≤ 8 := by decide

/-- OperandsWithoutEncodingAreRefused: one operand on each side of its range, in both clauses. -/
theorem witness_OperandsWithoutEncoding :
    (2 < 3 ∨ 18 < 2 ∨ 5 < 1 ∨ 4096 < 5) ∧ (3 < 3 ∨ 18 < 3 ∨ 4097 < 1 ∨ 4096 < 4097) ∧
    (19 < 3 ∨ 18 < 19 ∨ 5 < 3 ∨ 4098 < 5) ∧ (3 < 3 ∨ 18 < 3 ∨ 2 < 3 ∨ 4098 < 2) := by decide

/-- StepRunsTheCommandWritten: by offset, and by bus address. -/
theorem witness_StepRunsTheCommandWritten :
    ((hostAt (.write .regs 0 4 0x3)).turn = .host ∧
      (hostAt (.write .regs 0 4 0x3)).hostOps = [.write .regs 0 4 0x3]) ∧
    ((hostAt (.busWrite 0 4 0x3)).turn = .host ∧ locate (hostAt (.busWrite 0 4 0x3)).params 0 = some (.regs, 0)) ∧
    decode .ctrlWrite (.ctrlWord 0x3) = .ok (.find 0 false, []) := by decide

/-- StepRunsTheItemInTheStream: a reference in the eighth slot. -/
theorem witness_StepRunsTheItemInTheStream :
    let s := slotAt .block 0x01 7 [0x61, 0x62, 0x63] [0x00, 0x02] 6
    s.turn = .decoder ∧ s.decoder.place = some (.slot true .block) ∧ s.decoder.out.length < s.decoder.expect ∧
    decode (.slot true .block) (.stream (s.decoder.stream.drop s.decoder.idx)) = .ok (.refB 3 3, []) := by decide

/-- CtrlWriteStepIsTheRegisterWrite: a write that is no command, by offset and by bus address, and a command. -/
theorem witness_CtrlWriteStep :
    (hostAt (.write .regs 0 4 0x110)).turn = .host ∧
    (hostAt (.write .regs 0 4 0x110)).hostOps = [.write .regs 0 4 0x110] ∧
    ((hostAt (.busWrite 0 4 0x7)).turn = .host ∧ locate (hostAt (.busWrite 0 4 0x7)).params 0 = some (.regs, 0)) ∧
    encode (.find 1 true) = .ctrlWord 0x113#32 := by decide

/-- EngineMovesWhileBusyByDefault. -/
theorem witness_EngineMoves :
    (encAt .encChunk 0 3 4 3).turns = [] ∧ (encAt .encChunk 0 3 4 3).status.busy = true := by decide

/-- ParamShowsTheSelectedPreset: both presets. -/
theorem witness_Param :
    presetOf (findAt 0 7).ctrl.mode = some Preset.block ∧ presetOf (findAt 1 7).ctrl.mode = some Preset.image := by
  decide

/-- IrqFollowsDoneAndEnable: a command's last step with IE = 1, a clearing of DONE, of IE, and a START. -/
theorem witness_Irq :
    ((findAt 1 7).status.busy = true ∧ (findAt 1 7).ctrl.ie = true ∧
      answers (engineStep (findAt 1 7)) (fun t => t.status.busy == false && t.irq) = true) ∧
    ((idleAt 8 0).status.busy = false ∧ (0x2#32).getLsbD 1 = true) ∧
    ((0x110#32 &&& 0x10#32).getLsbD 0 = false ∧ (0x10#32).getLsbD 8 = false) ∧
    (writeReg .ctrl 0x105#32 (idleAt 8 0)).status.busy = true := by decide +kernel

/-- IdleControlWritesStoreAndClear and PositionRegistersKeepTwentyFourBits. -/
theorem witness_IdleWrites : (idleAt 8 0).status.busy = false ∧ (0x120#32).getLsbD 0 = false := by decide

/-- ReservedBitsAndOffsetsReadZero: the first reserved offset and the last. -/
theorem witness_ReservedOffsets : Reg.ofOffset 0x30 = none ∧ Reg.ofOffset 0xFC = none := by decide

/-- WritesWhileBusyAndToReadOnlyAreIgnored: the first and last words of both ranges. -/
theorem witness_IgnoredWrites :
    (encAt .encBlock 0 0 0 0).status.busy = true ∧ (0 < 0x100 ∧ 0 % 4 = 0) ∧ (0xFC < 0x100 ∧ 0xFC % 4 = 0) ∧
    (0x10 ≤ 0x10 ∧ 0x10 % 4 = 0) := by decide

/-- StartReportsTheFirstCause: V-X1's row at each cause's limit, and an accepted START of each command. -/
theorem witness_StartReportsTheFirstCause :
    (idleAt 65 0).status.busy = false ∧ (0x27#32).getLsbD 0 = true ∧ (0x27#32).extractLsb' 1 2 = 3#2 ∧
    ((0x35#32).getLsbD 0 = true ∧ (0x35#32).extractLsb' 1 2 = 2#2 ∧ (0x35#32).extractLsb' 4 2 = 3#2) ∧
    (idleAt 65 0).params.imemSize < (idleAt 65 0).srcLen.toNat ∧
    ((idleAt 4 4).srcLen.toNat ≤ (idleAt 4 4).cursor.toNat ∧ (0x3#32).extractLsb' 1 2 = 1#2) ∧
    (idleAt 51 0).params.omemSize < 51 + (51 + 7) / 8 + 7 ∧
    (writeReg .ctrl 0x5#32 (idleAt 50 0)).status.busy = true ∧
    (writeReg .ctrl 0x3#32 (idleAt 64 63)).status.busy = true := by decide

/-- FindStartsAndCompletesInOneStep: the last input byte of a full IMEM, both presets. -/
theorem witness_FindReady :
    FindReady 0 Preset.block (idleAt 64 63) ∧ FindReady 1 Preset.image (idleAt 64 63) :=
  ⟨⟨rfl, rfl, by decide, by decide⟩, ⟨rfl, rfl, by decide, by decide⟩⟩

/-- EncodeStartInitialises, EncodeRunComputesEncodeAll, DecodingAnEncodedStreamGivesTheInput: the longest
input that V-X1 accepts, both presets, and the empty input. -/
theorem witness_EncodeReady :
    EncodeReady 0 Preset.block (idleAt 50 0) ∧ EncodeReady 1 StreamKind.image.preset (idleAt 56 0) ∧
    EncodeReady 0 StreamKind.block.preset (idleAt 0 0) :=
  ⟨⟨rfl, rfl, by decide, by decide⟩, ⟨rfl, rfl, by decide, by decide⟩, ⟨rfl, rfl, by decide, by decide⟩⟩

/-- CommandStartFrame: an accepted, a refused and an ignored START. -/
theorem witness_CommandStartFrame :
    (∃ t, exec (.encode 0 true) (idleAt 8 0) = .next t) ∧ (∃ t, exec (.find 3 true) (idleAt 8 0) = .next t) ∧
    (∃ t, exec (.find 0 true) (encAt .encBlock 0 0 0 0) = .next t) := ⟨⟨_, rfl⟩, ⟨_, rfl⟩, ⟨_, rfl⟩⟩

/-- SearchReturnsTheLongestMatch, TiesFollowTheSearchDirection, SearchResultRanges: V-F3's data, where the
window ends at the cursor, and c = 0, where nothing is found. -/
theorem witness_Search :
    let rd := byteAt [0x61, 0x61, 0x61, 0x61, 0x61, 0x61, 0x61]
    (1 ≤ (findLongestMatch rd Preset.block 7 3).recLen ∧ 3 ≤ (findLongestMatch rd Preset.block 7 3).recLen ∧
      occurs rd 3 (3 - 0x1000) 0 (findLongestMatch rd Preset.block 7 3).recLen = true) ∧
    (1 ≤ (findLongestMatch rd Preset.image 7 3).recLen ∧
      occurs rd 3 (3 - 0x1002) 0 (findLongestMatch rd Preset.image 7 3).recLen = true) ∧
    (findLongestMatch rd Preset.block 7 0).recLen = 0 := by decide +kernel

/-- SelectPicksByDirection: a length that occurs twice, and one that occurs nowhere. -/
theorem witness_Select :
    let rd := byteAt [0x61, 0x62, 0x61, 0x62, 0x61]
    select rd false 4 0 1 = some 0 ∧ select rd true 4 0 1 = some 2 ∧ select rd true 4 0 5 = none := by decide

/-- SearchReadsOnlyItsWindow: two memories that differ behind the window alone. -/
theorem witness_SearchReadsOnlyItsWindow :
    3 < 5 ∧ ∀ a, 3 - Preset.block.maxMatchDiff ≤ a → a < 3 + min Preset.block.maxMatchLength (5 - 3) →
      byteAt [1, 2, 3, 4, 5] a = byteAt [1, 2, 3, 4, 5, 6] a := by
  refine ⟨by decide, fun a _ h => ?_⟩
  have h5 : a < 5 := h
  interval_cases a <;> rfl

/-- BlockStartWritesThePlaceholder, both branches. -/
theorem witness_BlockStart :
    ((encAt .encBlock 0 0 0 0).Inv ∧ (encAt .encBlock 0 0 0 0).cursor.toNat < (encAt .encBlock 0 0 0 0).srcLen.toNat) ∧
    ((encAt .encBlock 0 8 16 0).Inv ∧
      ¬(encAt .encBlock 0 8 16 0).cursor.toNat < (encAt .encBlock 0 8 16 0).srcLen.toNat) :=
  ⟨⟨inv_block, by decide⟩, ⟨inv_block_end, by decide⟩⟩

/-- ExhaustedSlotWritesAFillerOrNothing: BLOCK in the last slot, IMAGE in the second. -/
theorem witness_ExhaustedSlot :
    ((encAt .encChunk 0 8 15 7).Inv ∧ (encAt .encChunk 0 8 15 7).preset = some Preset.block ∧
      (encAt .encChunk 0 8 15 7).srcLen.toNat ≤ (encAt .encChunk 0 8 15 7).cursor.toNat) ∧
    ((encAt .encChunk 1 8 9 1).Inv ∧ (encAt .encChunk 1 8 9 1).preset = some Preset.image ∧
      (encAt .encChunk 1 8 9 1).srcLen.toNat ≤ (encAt .encChunk 1 8 9 1).cursor.toNat) :=
  ⟨⟨inv_exhausted_block, rfl, by decide⟩, ⟨inv_exhausted_image, rfl, by decide⟩⟩

/-- LongMatchIsEmittedAsReference: a match of length 3. -/
theorem witness_LongMatch :
    (encAt .encChunk 0 3 4 3).Inv ∧ (encAt .encChunk 0 3 4 3).preset = some Preset.block ∧
    (encAt .encChunk 0 3 4 3).cursor.toNat < (encAt .encChunk 0 3 4 3).srcLen.toNat ∧
    2 < (findLongestMatch (encAt .encChunk 0 3 4 3).imemByte Preset.block 8 3).recLen :=
  ⟨inv_long, rfl, by decide, by decide +kernel⟩

/-- ShortMatchIsEmittedAsLiteral: a match of length 2. -/
theorem witness_ShortMatch :
    (encAt .encChunk 0 2 3 2).Inv ∧ (encAt .encChunk 0 2 3 2).preset = some Preset.block ∧
    (encAt .encChunk 0 2 3 2).cursor.toNat < (encAt .encChunk 0 2 3 2).srcLen.toNat ∧
    (findLongestMatch (encAt .encChunk 0 2 3 2).imemByte Preset.block 8 2).recLen = 2 :=
  ⟨inv_short, rfl, by decide, by decide +kernel⟩

/-- FlushWritesTheFlagByte. -/
theorem witness_Flush : (encAt .encFlush 0 8 16 7).Inv ∧ (encAt .encFlush 0 8 16 7).phase = .encFlush :=
  ⟨inv_flush, rfl⟩

/-- EngineStepNeverFails. -/
theorem witness_EngineStepNeverFails : (findAt 1 7).Inv := inv_find

/-- EngineStepFrame, EngineWritesOmemInOrder: a step in every phase. -/
theorem witness_EngineSteps :
    answers (engineStep (idleAt 8 0)) (fun _ => true) = true ∧
    ((findAt 1 7).Inv ∧ answers (engineStep (findAt 1 7)) (fun _ => true) = true) ∧
    ((encAt .encBlock 0 0 0 0).Inv ∧ answers (engineStep (encAt .encBlock 0 0 0 0)) (fun _ => true) = true) ∧
    ((encAt .encChunk 0 3 4 3).Inv ∧ answers (engineStep (encAt .encChunk 0 3 4 3)) (fun _ => true) = true) ∧
    ((encAt .encFlush 0 8 16 7).Inv ∧ answers (engineStep (encAt .encFlush 0 8 16 7)) (fun _ => true) = true) :=
  ⟨by decide, ⟨inv_find, by decide +kernel⟩, ⟨inv_block, by decide⟩, ⟨inv_long, by decide +kernel⟩,
    ⟨inv_flush, by decide⟩⟩

/-- EncodeResultsDependOnTheInputAlone: machines that differ in the decoder and in a result register. -/
theorem witness_EncodeResultsDependOnTheInputAlone :
    let s := idleAt 8 0
    let s' : State := { idleAt 8 5 with matchPos := 3, decoder := Decoder.start .image [1] 1 }
    EncodeReady 0 Preset.block s ∧ EncodeReady 0 Preset.block s' ∧ s'.srcLen = s.srcLen ∧
    ∀ a, a < s.srcLen.toNat → s'.imemByte a = s.imemByte a :=
  ⟨⟨rfl, rfl, by decide, by decide⟩, ⟨rfl, rfl, by decide, by decide⟩, rfl, fun _ _ => rfl⟩

/-- FlagOpensItsBlock. -/
theorem witness_Flag : (Decoder.start .block [0x20] 1).out.length < (Decoder.start .block [0x20] 1).expect := by
  decide

/-- LiteralAppendsItsByte, LiteralSlotTakesTheNextStreamByte: the last slot with a byte, and with none, a
reference slot with one byte left (V-D10), and a block's start with none. -/
theorem witness_Literal :
    let s := slotAt .block 0xFE 7 [] [0x41] 1
    let z := slotAt .block 0xFE 7 [] [] 1
    let r := slotAt .image 0x10 3 [0x78, 0x79, 0x7A] [0x00] 6
    let e : State := { State.reset with decoder := Decoder.start .block [] 1 }
    (s.turn = .decoder ∧ (0xFE#8).getLsbD (7 - 7) = false ∧ s.decoder.phase = .slot 0xFE 7 ∧
      s.decoder.out.length < s.decoder.expect ∧ s.decoder.stream[s.decoder.idx]? = some 0x41) ∧
    (z.turn = .decoder ∧ z.decoder.phase = .slot 0xFE 7 ∧ z.decoder.out.length < z.decoder.expect ∧
      z.decoder.stream.length ≤ z.decoder.idx) ∧
    (r.turn = .decoder ∧ (0x10#8).getLsbD (7 - 3) = true ∧ r.decoder.phase = .slot 0x10 3 ∧
      r.decoder.out.length < r.decoder.expect ∧ r.decoder.stream.length ≤ r.decoder.idx + 1) ∧
    (e.turn = .decoder ∧ e.decoder.phase = .blockStart ∧ e.decoder.out.length < e.decoder.expect ∧
      e.decoder.stream.length ≤ e.decoder.idx) := by
  decide

/-- BlockReferenceCopies: the greatest distance that the output allows, in the last slot. -/
theorem witness_BlockReferenceCopies :
    let s := slotAt .block 0x01 7 [0x61, 0x62] [0xF0, 0x01] 20
    s.decoder.phase = .slot 0x01 7 ∧ s.decoder.out.length < s.decoder.expect ∧ 2 ≤ s.decoder.out.length := by decide

/-- BlockReferenceBeyondOutputFails: one more than the output's length. -/
theorem witness_BlockReferenceBeyondOutput :
    let s := slotAt .block 0x01 7 [0x61, 0x62] [0x00, 0x02] 20
    s.decoder.phase = .slot 0x01 7 ∧ s.decoder.out.length < s.decoder.expect ∧ s.decoder.out.length < 3 := by decide

/-- ImageReferenceCopiesOrClamps: each of its three cases at its limit, distance 3. -/
theorem witness_ImageReference :
    let s := slotAt .image 0x10 3 [1, 2, 3] [0, 0] 6
    let c := slotAt .image 0x20 2 [1, 2] [0, 0] 6
    let f := slotAt .image 0x40 1 [1] [0, 0] 6
    (s.decoder.phase = .slot 0x10 3 ∧ 3 ≤ s.decoder.out.length ∧ s.decoder.out.length < s.decoder.expect) ∧
    (c.decoder.phase = .slot 0x20 2 ∧ c.decoder.out.length < 3 ∧ c.params.imageClamp = .compat ∧
      2 ≤ c.decoder.out.length ∧ c.decoder.out.length < c.decoder.expect) ∧
    (f.decoder.phase = .slot 0x40 1 ∧ f.decoder.out.length < 2 ∧ f.decoder.out.length < f.decoder.expect) := by decide

/-- StreamItemFrame: an item of each place. -/
theorem witness_StreamItemFrame :
    (Instr.flag 0).place = .blockStart ∧ (∃ t, exec (.flag 0) (idleAt 8 0) = .next t) ∧
    (Instr.refI 3 3).place = .slot true .image ∧ (∃ t, exec (.refI 3 3) (idleAt 8 0) = .next t) :=
  ⟨rfl, ⟨_, rfl⟩, rfl, ⟨_, rfl⟩⟩

/-- DecoderStopsAtItsLength. -/
theorem witness_DecoderStops :
    let s := slotAt .block 0x00 1 [0x41] [0x00] 1
    s.decoder.running = true ∧ s.decoder.out.length = s.decoder.expect ∧ s.turn = .decoder ∧
    (Instr.lit 0).wellFormed = true := by decide

/-- DecodingAlwaysEndsWithinBounds: its second clause. -/
theorem witness_DecodingEnds : decodeStream .block .strict [0x00, 0x41] 1 = .ok [0x41] := by decide

/-- IdleReadsAreExactAndPure, HostByteWriteIsReadBack: the last byte of each memory. -/
theorem witness_IdleAccesses :
    (idleAt 8 0).status.busy = false ∧ 63 < (idleAt 8 0).params.imemSize ∧ 63 < (idleAt 8 0).params.omemSize := by decide

/-- BusyReadsCompleteAndControlIsExact, ForbiddenHostAccessesAreRefused: the ends of the spaces. -/
theorem witness_BusyAccesses :
    let s := encAt .encBlock 0 0 0 0
    s.status.busy = true ∧ (0xFC < spaceSize s.params .regs ∧ widthAllowed .regs 0xFC 4 = true) ∧
    (63 < spaceSize s.params .omem ∧ widthAllowed .omem 63 1 = true) ∧ 63 < s.params.imemSize ∧
    (0xFF < 0x100 ∧ 0xFF % 4 ≠ 0) := by decide

/-- HostReadsDoNotDisturbTheEngine: a read of OMEM during a run. -/
theorem witness_HostReads :
    answers (hostRead .omem 63 1 (encAt .encBlock 0 0 0 0)) (fun _ => true) = true ∧
    answers (engineStep (encAt .encBlock 0 0 0 0)) (fun _ => true) = true := by decide

/-- BlockCodecRoundTrips: data of one byte, and none. -/
theorem witness_BlockCodec : ([0x41#8] : List Byte).length ≤ maxInput ∧ ([] : List Byte).length ≤ maxInput := by decide

/-- ImageCodecRoundTripsUnlessRawOrAmbiguous: V-H2's data, 'A' and 21 zeros. -/
theorem witness_ImageCodec :
    let data : List Byte := 0x41 :: List.replicate 21 0
    data.length < 2 ^ 24 ∧ takesFallback .stream (trimImage data) data.length = false ∧
    extraSizeWord .stream (trimImage data) data.length ≠ 0 ∧
    (trimImage data).stream.length + headerLength .stream (trimImage data) < 2 ^ 24 := by decide +kernel

/-- The same for a main image: the prefix, then that data. -/
theorem witness_ImageCodec_main :
    let data : List Byte := List.replicate 0x4000 0 ++ 0x41 :: List.replicate 21 0
    0x4000 ≤ data.length ∧ data.drop 0x4000 = 0x41 :: List.replicate 21 0 := by
  refine ⟨?_, ?_⟩
  · rw [List.length_append, List.length_replicate]; exact Nat.le_add_right _ _
  · exact List.drop_left' List.length_replicate

/-- ImageCodecKeepsThePrefixAndTheBound: both kinds of image compress. -/
theorem witness_ImageBound :
    let h : HostParams := { blockTag := 0, padBasis := .container, fallbackPad := 0, imageClamp := .strict }
    (∃ out, compressImage h (List.replicate 0x4000 0) true = .ok out) ∧
    (∃ out, compressImage h [] false = .ok out) :=
  ⟨⟨_, by rw [compressImage, if_neg (by rw [List.length_replicate]; decide),
    if_neg (by rw [List.length_drop, List.length_replicate]; decide)]⟩, ⟨_, rfl⟩⟩

/-- ChunksOutOfPlaceKeepTheirEffect: a failed decoder with three bytes written and one to come, where distance 3
is within the output and 4 beyond it, under compat, and a block's start with none written. -/
theorem witness_ChunksOutOfPlace :
    let d : Decoder := { Decoder.start .image [0x41] 4 with out := [1, 2, 3], phase := .failed .truncatedInput }
    let z := Decoder.start .block [0x41] 1
    ((∀ f b, d.phase ≠ .slot f b) ∧ d.out.length < d.expect ∧ 3 ≤ d.out.length ∧ d.out.length < 4 ∧
      2 ≤ d.out.length ∧ State.reset.params.imageClamp = .compat) ∧
    ((∀ f b, z.phase ≠ .slot f b) ∧ z.out.length < z.expect ∧ z.out.length < 3 ∧ z.out.length < 2) :=
  ⟨⟨fun _ _ h => DecoderPhase.noConfusion h, by decide, by decide, by decide, by decide, rfl⟩,
    ⟨fun _ _ h => DecoderPhase.noConfusion h, by decide, by decide, by decide⟩⟩

end Sys2Proof.Machine
end

/-! # 10_state.md: PARAM and IRQ -/

namespace Sys2Proof.Machine

/-! ## PARAM follows CTRL.MODE (R40) -/

/-- MODE 0 and 1 are the only ones with a preset (R6, R32). -/
theorem presetOf_eq_some {mode : BitVec 2} {P : Preset} (h : presetOf mode = some P) :
    (mode = 0 ∧ P = Preset.block) ∨ (mode = 1 ∧ P = Preset.image) := by
  unfold presetOf at h
  split_ifs at h with h0 h1
  · exact .inl ⟨h0, (Option.some.inj h).symm⟩
  · exact .inr ⟨h1, (Option.some.inj h).symm⟩

/-- PARAM's word for each MODE (R40). -/
theorem paramWord_eq : ∀ mode : BitVec 2, paramWord mode =
    if mode = 0 then 0x10000129#32 else if mode = 1 then 0x10020127#32 else 0#32 := by decide

/-- PARAM's word for a MODE with a preset. -/
theorem paramWord_of_preset {mode : BitVec 2} {P : Preset} (h : presetOf mode = some P) :
    paramWord mode = presetWord P := by simp [paramWord, h]

/-- Settles O14: PARAM is a function of CTRL.MODE alone, and each preset's members fit their fields. -/
theorem paramShowsTheSelectedPreset : Obligations.ParamShowsTheSelectedPreset := by
  refine ⟨fun s => paramWord_eq s.ctrl.mode, fun s P h => ?_, paramWord_eq 0⟩
  have hw : regWord .param s = presetWord P := paramWord_of_preset h
  rw [hw]
  obtain ⟨-, rfl⟩ | ⟨-, rfl⟩ := presetOf_eq_some h
  · decide
  · decide

/-! ## What an engine step does to CTRL and STATUS (R30, R264) -/

section
variable (s : State)

@[simp] theorem complete_ctrl : (complete s).ctrl = s.ctrl := rfl
@[simp] theorem complete_status : (complete s).status = s.status.completed := rfl

@[simp] theorem countChunk_ctrl (c e : Nat) : (countChunk c e s).ctrl = s.ctrl := rfl
@[simp] theorem countChunk_status (c e : Nat) : (countChunk c e s).status = s.status := rfl

@[simp] theorem advanceChunk_ctrl : (advanceChunk s).ctrl = s.ctrl := by
  obtain ⟨_, h⟩ | ⟨_, h⟩ := advanceChunk_cases s <;> rw [h]

@[simp] theorem advanceChunk_status : (advanceChunk s).status = s.status := by
  obtain ⟨_, h⟩ | ⟨_, h⟩ := advanceChunk_cases s <;> rw [h]

@[simp] theorem updateTrace_ctrl : (updateTrace s).ctrl = s.ctrl := by
  obtain ⟨_, h⟩ | ⟨_, h⟩ := updateTrace_cases s <;> rw [h]

@[simp] theorem updateTrace_status : (updateTrace s).status = s.status := by
  obtain ⟨_, h⟩ | ⟨_, h⟩ := updateTrace_cases s <;> rw [h]

end

/-- A chunk, filler or empty slot leaves CTRL and STATUS (41_greedy_encoder.md R173 to R178). -/
theorem chunkStep_ctrl_status {s t : State} (h : chunkStep s = .ok t) :
    t.ctrl = s.ctrl ∧ t.status = s.status := by
  unfold chunkStep at h
  split_ifs at h
  · obtain ⟨P, r, s1, -, rfl, ⟨-, he⟩ | ⟨-, he⟩⟩ := selectorStep_ok h
    · obtain ⟨-, rfl⟩ := emitRef_ok he
      simp
    · obtain ⟨-, rfl⟩ := emitLit_ok he
      simp
  · obtain ⟨P, -, ⟨-, -, rfl⟩ | ⟨-, rfl⟩⟩ := exhaustedStep_ok h
    · simp
    · simp

/-- An engine step never writes CTRL, and it leaves STATUS or completes the command (R264). -/
theorem engineMove_ctrl_status {s t : State} (h : engineMove s = .ok t) :
    t.ctrl = s.ctrl ∧ (t.status = s.status ∨ t.status = s.status.completed) := by
  unfold engineMove at h
  cases hp : s.phase with simp only [hp] at h
  | idle =>
    cases h
    exact ⟨rfl, .inl rfl⟩
  | findRun =>
    obtain ⟨P, r, -, rfl⟩ := findStep_ok h
    simp
  | encBlock =>
    obtain ⟨-, -, rfl⟩ | ⟨-, rfl⟩ := blockStep_ok h
    · simp
    · simp
  | encChunk =>
    obtain ⟨hc, hs⟩ := chunkStep_ctrl_status h
    exact ⟨hc, .inl hs⟩
  | encFlush =>
    obtain ⟨-, rfl⟩ := flushStep_ok h
    simp

/-! ## What the host's writes to CTRL and STATUS do while idle (R33, R260) -/

theorem writeReg_status_idle {s : State} (h : s.status.busy = false) (w : Word) :
    writeReg .status w s = acknowledge w s := by simp [writeReg, h]

theorem writeReg_ctrl_start {w : Word} (hw : ctrlStart w = true) (s : State) :
    writeReg .ctrl w s = startCommand (ctrlOp w) (ctrlMode w) (ctrlIe w) s := by
  simp [writeReg, writeCtrl, hw]

theorem writeReg_ctrl_noStart {w : Word} {s : State} (hw : ctrlStart w = false) (h : s.status.busy = false) :
    writeReg .ctrl w s = s.setCtrl { op := ctrlOp w, mode := ctrlMode w, ie := ctrlIe w } := by
  simp [writeReg, writeCtrl, hw, h]

/-- A START that takes the engine from idle to BUSY leaves an accepted command's STATUS (R260). -/
theorem startCommand_status_of_busy {op mode : BitVec 2} {ie : Bool} {s : State} (h : s.status.busy = false)
    (hb : (startCommand op mode ie s).status.busy = true) :
    (startCommand op mode ie s).status = Status.accepted := by
  obtain ⟨hbusy, -⟩ | ⟨-, e, -, heq⟩ | ⟨-, -, heq⟩ := startCommand_cases op mode ie s
  · simp [h] at hbusy
  · simp [heq, refuseStart, Status.refused] at hb
  · rw [heq]
    split_ifs <;> rfl

/-- So does a CTRL write. -/
theorem writeReg_ctrl_status_of_busy {w : Word} {s : State} (h : s.status.busy = false)
    (hb : (writeReg .ctrl w s).status.busy = true) : (writeReg .ctrl w s).status = Status.accepted := by
  cases hw : ctrlStart w with
  | true =>
    rw [writeReg_ctrl_start hw] at hb ⊢
    exact startCommand_status_of_busy h hb
  | false => simp [writeReg_ctrl_noStart hw h, h] at hb

/-! ## IRQ (R42) -/

theorem State.irq_iff (s : State) : s.irq = true ↔ s.status.done = true ∧ s.ctrl.ie = true := by
  simp [State.irq]

theorem State.irq_of_done_false {s : State} (h : s.status.done = false) : s.irq = false := by
  simp [State.irq, h]

theorem State.irq_of_ie_false {s : State} (h : s.ctrl.ie = false) : s.irq = false := by
  simp [State.irq, h]

/-- The step that ends a command sets DONE and keeps IE, so IRQ takes IE's level. -/
theorem irq_of_engineStep_ends {s t : State} (hb : s.status.busy = true) (h : engineStep s = .next t)
    (ht : t.status.busy = false) : t.irq = s.ctrl.ie := by
  obtain ⟨hc, hs | hs⟩ := engineMove_ctrl_status (engineStep_next_iff.1 h)
  · simp [hs, hb] at ht
  · simp [State.irq, hc, hs, Status.completed]

/-- Settles O15: only completion sets DONE, and an acknowledgement, a cleared IE and an accepted START each
take one of IRQ's two inputs away. -/
theorem irqFollowsDoneAndEnable : Obligations.IrqFollowsDoneAndEnable := by
  refine ⟨State.irq_iff, fun _ _ => irq_of_engineStep_ends, fun s w h h1 => ?_, fun s w h h0 h8 => ?_,
    fun s w hb h => ?_⟩
  · rw [writeReg_status_idle h]
    exact State.irq_of_done_false (by simp [acknowledge, Status.w1c, h1])
  · rw [writeReg_ctrl_noStart h0 h]
    exact State.irq_of_ie_false h8
  · exact State.irq_of_done_false (by simp [writeReg_ctrl_status_of_busy h hb, Status.accepted])

end Sys2Proof.Machine

namespace Sys2Proof

/-! # 30_encoding.md: the flag byte -/

/-- Slot `slot` owns exactly bit 7 - slot (R101). -/
theorem flagBit_getLsbD {slot i : Nat} (hs : slot < 8) (hi : i < 8) :
    (flagBit slot).getLsbD (7 - i) = decide (i = slot) := by
  simp only [flagBit, BitVec.getLsbD_shiftLeft, BitVec.getLsbD_one, ← Bool.decide_and, ← decide_not]
  exact decide_eq_decide.2 (by omega)

/-- The items from slot `slot` on set the bits of their own slots and no earlier slot's (R101). -/
theorem flagByteFrom_getLsbD (chunks : List Instr) {slot i : Nat} (hlen : slot + chunks.length ≤ 8) (hi : i < 8) :
    (flagByteFrom slot chunks).getLsbD (7 - i) =
      (decide (slot ≤ i) && ((chunks[i - slot]?).map Instr.isRef).getD false) := by
  induction chunks generalizing slot with
  | nil => simp [flagByteFrom]
  | cons c rest ih =>
    rw [List.length_cons] at hlen
    have hbit : (if c.isRef then flagBit slot else 0).getLsbD (7 - i) = (c.isRef && decide (i = slot)) := by
      cases c.isRef
      · simp
      · simpa using flagBit_getLsbD (by omega) hi
    rw [flagByteFrom, BitVec.getLsbD_or, hbit, ih (by omega)]
    obtain hlt | rfl | hgt := Nat.lt_trichotomy i slot
    -- Slot `i` lies before this item, is its slot, or lies after it.
    · simp [hlt.ne, hlt.not_ge, (Nat.lt_succ_of_lt hlt).not_ge]
    · simp
    · simp [show i - slot = i - (slot + 1) + 1 by omega, hgt.ne', hgt.le, Nat.succ_le_of_lt hgt]

/-- Settles O8: a block's items start at slot 0, so every slot's bit is its own item's. -/
theorem flagByteBitsNameTheReferences : Obligations.FlagByteBitsNameTheReferences := by
  intro chunks i hlen hi
  simpa [flagByteOf] using flagByteFrom_getLsbD (slot := 0) chunks (by omega) hi

end Sys2Proof

/-! # 40_match_search.md: the search and its result -/

namespace Sys2Proof.Machine

/-! ## Select takes an extreme position of the window (R143) -/

/-- In a list sorted by `R`, what `find?` answers is below every element that passes the test. -/
theorem rel_of_find?_eq_some {α : Type} {R : α → α → Prop} {f : α → Bool} {l : List α} {a b : α}
    (refl : ∀ x, R x x) (hl : l.Pairwise R) (h : l.find? f = some a) (hb : b ∈ l) (hfb : f b = true) : R a b := by
  obtain ⟨-, before, after, rfl, hbefore⟩ := List.find?_eq_some_iff_append.1 h
  obtain hb | hb := List.mem_append.1 hb
  · simpa [hfb] using hbefore b hb
  · obtain rfl | hb := List.mem_cons.1 hb
    · exact refl b
    · exact List.rel_of_pairwise_cons (List.pairwise_append.1 hl).2.1 hb

/-- In a list sorted by an order `R` that holds every element passing the test, `find?` answers the
`R`-least of them. -/
theorem find?_eq_some_iff_extreme {α : Type} {R : α → α → Prop} {f : α → Bool} {l : List α} {a : α}
    (refl : ∀ x, R x x) (antisymm : ∀ x y, R x y → R y x → x = y) (hl : l.Pairwise R)
    (hmem : ∀ x, f x = true → x ∈ l) :
    l.find? f = some a ↔ f a = true ∧ ∀ b, f b = true → R a b := by
  refine ⟨fun h => ⟨List.find?_some h, fun b hb => rel_of_find?_eq_some refl hl h (hmem b hb) hb⟩,
    fun ⟨ha, hmin⟩ => ?_⟩
  cases hfind : l.find? f with
  | none => exact absurd ha (List.find?_eq_none.1 hfind a (hmem a ha))
  | some b =>
    have hba : R b a := rel_of_find?_eq_some refl hl hfind (hmem a ha) ha
    rw [antisymm b a hba (hmin b (List.find?_some hfind))]

/-- An occurrence starts at a candidate position. -/
theorem mem_positions_of_occurs {rd : Nat → Byte} {c ws m : Nat} (p : Nat) (h : occurs rd c ws p m = true) :
    p ∈ positions ws c := by
  obtain ⟨hws, hc, -⟩ := occurs_iff.1 h
  exact mem_positions.2 ⟨hws, by omega⟩

theorem positions_pairwise_le (ws c : Nat) : (positions ws c).Pairwise (· ≤ ·) := List.pairwise_le_range'

/-- R143: Select is NOTFOUND exactly when the length occurs nowhere. -/
theorem select_eq_none_iff {rd : Nat → Byte} {rev : Bool} {c ws m : Nat} :
    select rd rev c ws m = none ↔ ∀ p, occurs rd c ws p m = false := by
  have hnone : select rd rev c ws m = none ↔ ∀ p ∈ positions ws c, ¬ occurs rd c ws p m = true := by
    cases rev <;> simp [select]
  rw [hnone]
  exact ⟨fun h p => Bool.eq_false_iff.2 fun hp => h p (mem_positions_of_occurs p hp) hp,
    fun h p _ => Bool.eq_false_iff.1 (h p)⟩

/-- R143 without searchReverse: the least position where the length occurs. -/
theorem select_forward_eq_some_iff {rd : Nat → Byte} {c ws m p : Nat} :
    select rd false c ws m = some p ↔
      occurs rd c ws p m = true ∧ ∀ q, occurs rd c ws q m = true → p ≤ q :=
  find?_eq_some_iff_extreme (R := (· ≤ ·)) Nat.le_refl (fun _ _ => Nat.le_antisymm)
    (positions_pairwise_le ws c) mem_positions_of_occurs

/-- R143 with searchReverse: the greatest position where the length occurs. -/
theorem select_reverse_eq_some_iff {rd : Nat → Byte} {c ws m p : Nat} :
    select rd true c ws m = some p ↔
      occurs rd c ws p m = true ∧ ∀ q, occurs rd c ws q m = true → q ≤ p :=
  find?_eq_some_iff_extreme (R := (· ≥ ·)) Nat.le_refl (fun _ _ h h' => Nat.le_antisymm h' h)
    (List.pairwise_reverse.2 (positions_pairwise_le ws c))
    fun q hq => List.mem_reverse.2 (mem_positions_of_occurs q hq)

/-- Settles O24: Select scans the window's positions in rising or falling order, so what it finds first is
extreme. -/
theorem selectPicksByDirection : Obligations.SelectPicksByDirection := by
  intro rd reverse c ws m
  exact ⟨select_eq_none_iff, fun _ => select_forward_eq_some_iff, fun _ => select_reverse_eq_some_iff⟩

/-! ## The loop's bounds (R144) -/

/-- What the bounds keep during an evaluation: MID is a length of [0, U]. -/
structure SearchBounds (P : Preset) (n c : Nat) (r : SearchRegs) : Prop where
  ws_eq     : r.ws = windowStart P c
  lo_nonneg : 0 ≤ r.lo
  hi_le     : r.hi ≤ (lengthCap P n c : Int)

theorem searchInit_bounds (P : Preset) (n c : Nat) : SearchBounds P n c (searchInit P n c) :=
  ⟨rfl, le_refl _, le_refl _⟩

/-- MID lies between LO and HI. -/
theorem mid_between_bounds {lo hi : Int} (h0 : 0 ≤ lo) (h : lo ≤ hi) :
    lo ≤ (((lo + hi) / 2).toNat : Int) ∧ (((lo + hi) / 2).toNat : Int) ≤ hi := by omega

/-- One iteration lowers HI below MID or raises LO above it, and keeps the bounds. -/
theorem searchIter_bounds {rd : Nat → Byte} {P : Preset} {n c : Nat} {r : SearchRegs}
    (hb : SearchBounds P n c r) (hle : r.lo ≤ r.hi) :
    SearchBounds P n c (searchIter rd P c r) ∧
      (searchIter rd P c r).hi - (searchIter rd P c r).lo < r.hi - r.lo := by
  obtain ⟨hws, h0, hcap⟩ := hb
  obtain ⟨hlo, hhi⟩ := mid_between_bounds h0 hle
  obtain ⟨-, h⟩ | ⟨p, -, ⟨-, h⟩ | ⟨-, h⟩⟩ := searchIter_cases rd P c r <;> rw [h]
  · exact ⟨⟨hws, h0, by simp only; omega⟩, by simp only; omega⟩
  · exact ⟨⟨hws, by simp only; omega, hcap⟩, by simp only; omega⟩
  · exact ⟨⟨hws, by simp only; omega, hcap⟩, by simp only; omega⟩

/-- With fuel for every candidate length the loop ends as R144 has it, with LO above HI. -/
theorem searchLoop_exits {rd : Nat → Byte} {P : Preset} {n c : Nat} :
    ∀ {k : Nat} {r : SearchRegs}, SearchBounds P n c r → r.hi - r.lo < k →
      (searchLoop rd P c k r).hi < (searchLoop rd P c k r).lo
  | 0, r, _, hk => by
    unfold searchLoop
    omega
  | k + 1, r, hb, hk => by
    unfold searchLoop
    split_ifs with hle
    · obtain ⟨hb', hlt⟩ := searchIter_bounds (rd := rd) hb hle
      exact searchLoop_exits hb' (by omega)
    · exact not_le.1 hle

theorem findLongestMatch_exits (rd : Nat → Byte) (P : Preset) (n c : Nat) :
    (findLongestMatch rd P n c).hi < (findLongestMatch rd P n c).lo :=
  searchLoop_exits (searchInit_bounds P n c) (by simp [searchInit])

/-! ## The result is the longest match (R145) -/

/-- R145's loop invariant, items 2 and 4: HI is not below any length that occurs, LO is at most one above the
record, and the record is Select's. -/
structure SearchInv (rd : Nat → Byte) (P : Preset) (n c : Nat) (r : SearchRegs) : Prop where
  ws_eq     : r.ws = windowStart P c
  le_hi     : ∀ m p, m ≤ lengthCap P n c → occurs rd c (windowStart P c) p m = true → (m : Int) ≤ r.hi
  lo_le     : r.lo ≤ r.recLen + 1
  select_eq : 1 ≤ r.recLen → select rd P.searchReverse c (windowStart P c) r.recLen = some r.recPos

theorem searchInit_inv (rd : Nat → Byte) (P : Preset) (n c : Nat) : SearchInv rd P n c (searchInit P n c) where
  ws_eq := rfl
  le_hi _ _ hm _ := Int.ofNat_le.2 hm
  lo_le := by simp [searchInit]
  select_eq h := absurd h (by simp [searchInit])

/-- R145 item 1: a length that occurs nowhere is above every length that occurs. -/
theorem lt_of_select_eq_none {rd : Nat → Byte} {rev : Bool} {c ws p m mid : Nat}
    (hnone : select rd rev c ws mid = none) (h : occurs rd c ws p m = true) : m < mid := by
  by_contra hle
  simpa [select_eq_none_iff.1 hnone p] using occurs_mono h (not_lt.1 hle)

theorem searchIter_inv {rd : Nat → Byte} {P : Preset} {n c : Nat} {r : SearchRegs}
    (hr : SearchInv rd P n c r) : SearchInv rd P n c (searchIter rd P c r) := by
  obtain ⟨hws, hhi, hlo, hsel⟩ := hr
  obtain ⟨hnone, h⟩ | ⟨p, hp, ⟨-, h⟩ | ⟨hle, h⟩⟩ := searchIter_cases rd P c r <;> rw [h]
  · refine ⟨hws, fun m q _ hq => ?_, hlo, hsel⟩
    have hlt := lt_of_select_eq_none (hws ▸ hnone) hq
    simp only
    omega
  · exact ⟨hws, hhi, le_refl _, fun _ => hws ▸ hp⟩
  · exact ⟨hws, hhi, by simp only; omega, hsel⟩

theorem findLongestMatch_inv (rd : Nat → Byte) (P : Preset) (n c : Nat) :
    SearchInv rd P n c (findLongestMatch rd P n c) :=
  searchLoop_induct (fun _ hr _ => searchIter_inv hr) _ _ (searchInit_inv rd P n c)

/-- R145: no candidate length that occurs is longer than the result. -/
theorem le_findLongestMatch_recLen {rd : Nat → Byte} {P : Preset} {n c m p : Nat} (hm : m ≤ lengthCap P n c)
    (h : occurs rd c (windowStart P c) p m = true) : m ≤ (findLongestMatch rd P n c).recLen := by
  have hinv := findLongestMatch_inv rd P n c
  have hhi := hinv.le_hi m p hm h
  have hlo := hinv.lo_le
  have hexit := findLongestMatch_exits rd P n c
  omega

/-- R145: a result of length at least 1 has the position that Select gives its length. -/
theorem select_findLongestMatch {rd : Nat → Byte} {P : Preset} {n c : Nat}
    (h : 1 ≤ (findLongestMatch rd P n c).recLen) :
    select rd P.searchReverse c (windowStart P c) (findLongestMatch rd P n c).recLen =
      some (findLongestMatch rd P n c).recPos :=
  (findLongestMatch_inv rd P n c).select_eq h

/-- The result's length occurs: at the result's position, or as length 0 at the cursor. -/
theorem exists_occurs_findLongestMatch (rd : Nat → Byte) (P : Preset) (n c : Nat) :
    ∃ p, occurs rd c (windowStart P c) p (findLongestMatch rd P n c).recLen = true := by
  obtain ⟨-, -, ⟨h0, -⟩ | ⟨-, hocc⟩⟩ := findLongestMatch_record rd P n c
  · exact ⟨c, h0 ▸ occurs_zero (Nat.sub_le _ _) (le_refl c)⟩
  · exact ⟨_, hocc⟩

/-- Settles O25: the loop ends with LO above HI, and its invariant puts every length that occurs at most at HI
and LO at most one above the record. -/
theorem searchReturnsTheLongestMatch : Obligations.SearchReturnsTheLongestMatch := by
  intro rd P n c _
  obtain ⟨-, hcap, hrec⟩ := findLongestMatch_record rd P n c
  refine ⟨hcap, exists_occurs_findLongestMatch rd P n c, fun m p => le_findLongestMatch_recLen,
    select_findLongestMatch, fun h0 => ?_⟩
  obtain ⟨-, hpos⟩ | ⟨h1, -⟩ := hrec
  · exact hpos
  · omega

/-! ## Ties and ranges (R147, R151) -/

/-- Settles O26: the result's position is Select's, and the distance falls as the position rises. -/
theorem tiesFollowTheSearchDirection : Obligations.TiesFollowTheSearchDirection := by
  intro rd n c p _
  refine ⟨fun hlen hp => ?_, fun hlen hp => ?_⟩
  · obtain ⟨-, hleast⟩ := select_forward_eq_some_iff.1 (select_findLongestMatch hlen)
    exact Nat.sub_le_sub_left (hleast p hp) c
  · obtain ⟨-, hgreatest⟩ := select_reverse_eq_some_iff.1 (select_findLongestMatch hlen)
    exact Nat.sub_le_sub_left (hgreatest p hp) c

/-- R151 for every parameter set: a match lies within the window and its length within the cap. -/
theorem findLongestMatch_ranges {rd : Nat → Byte} {P : Preset} {n c : Nat}
    (h : 1 ≤ (findLongestMatch rd P n c).recLen) :
    c - P.maxMatchDiff ≤ (findLongestMatch rd P n c).recPos ∧
      (findLongestMatch rd P n c).recPos + (findLongestMatch rd P n c).recLen ≤ c ∧
      (findLongestMatch rd P n c).recLen ≤ P.maxMatchLength := by
  obtain ⟨-, hcap, ⟨h0, -⟩ | ⟨-, hocc⟩⟩ := findLongestMatch_record rd P n c
  · omega
  · obtain ⟨hws, hend, -⟩ := occurs_iff.1 hocc
    exact ⟨hws, hend, hcap.trans (min_le_left _ _)⟩

/-- The presets' limits (R6), as R151 uses them. -/
theorem preset_limits (kind : StreamKind) :
    kind.preset.maxMatchLength = 18 ∧ kind.preset.posSubtract ≤ 3 ∧
      (kind = .block → kind.preset.posSubtract = 1) ∧
      kind.preset.maxMatchDiff ≤ kind.preset.posSubtract + 0xFFF := by
  cases kind <;> decide

/-- Settles O27: the ranges of an occurrence, with the limits of the two presets. -/
theorem searchResultRanges : Obligations.SearchResultRanges := by
  intro rd kind n c hc hn
  dsimp only
  intro hlen
  obtain ⟨hws, hend, hmax⟩ := findLongestMatch_ranges hlen
  obtain ⟨hmaxLen, hsub, hblock, hdiff⟩ := preset_limits kind
  refine ⟨hws, hend, by omega, by omega, by omega, fun h3 => ⟨by omega, by omega, fun hk => ?_, by omega⟩,
    ?_, ?_⟩
  · have := hblock hk
    omega
  · exact Nat.mod_eq_of_lt (by omega)
  · exact Nat.mod_eq_of_lt (by omega)

/-! ## What an evaluation reads (R150) -/

/-- Select reads the window and the `m` bytes from the cursor on. -/
theorem select_congr {rd rd' : Nat → Byte} {rev : Bool} {c ws m : Nat}
    (h : ∀ a, ws ≤ a → a < c + m → rd a = rd' a) : select rd rev c ws m = select rd' rev c ws m := by
  simp only [select, occurs_congr h]

/-- One iteration depends on the memory through the Select of its MID alone. -/
theorem searchIter_congr {rd rd' : Nat → Byte} {P : Preset} {c : Nat} {r : SearchRegs}
    (h : select rd P.searchReverse c r.ws ((r.lo + r.hi) / 2).toNat =
      select rd' P.searchReverse c r.ws ((r.lo + r.hi) / 2).toNat) :
    searchIter rd P c r = searchIter rd' P c r := by
  simp only [searchIter, h]

/-- Memories that agree on [WS, c + U) take the loop through the same registers, since MID is at most U. -/
theorem searchLoop_congr {rd rd' : Nat → Byte} {P : Preset} {n c : Nat}
    (h : ∀ a, windowStart P c ≤ a → a < c + lengthCap P n c → rd a = rd' a) :
    ∀ (k : Nat) {r : SearchRegs}, SearchBounds P n c r → searchLoop rd P c k r = searchLoop rd' P c k r
  | 0, _, _ => rfl
  | k + 1, r, hb => by
    unfold searchLoop
    split_ifs with hle
    · obtain ⟨-, hmid⟩ := mid_between_bounds hb.lo_nonneg hle
      have hcap := hb.hi_le
      have hiter : searchIter rd P c r = searchIter rd' P c r :=
        searchIter_congr (select_congr fun a ha hac => h a (hb.ws_eq ▸ ha) (by omega))
      rw [hiter]
      exact searchLoop_congr h k (searchIter_bounds hb hle).1
    · rfl

/-- Settles O28: every MID is at most U, so each Select of the loop reads within [WS, c + U). -/
theorem searchReadsOnlyItsWindow : Obligations.SearchReadsOnlyItsWindow := by
  intro rd rd' P n c hc
  exact ⟨by omega, fun h => searchLoop_congr h _ (searchInit_bounds P n c)⟩

end Sys2Proof.Machine

/-! # 41_greedy_encoder.md: ENCODE's steps -/

namespace Sys2Proof.Machine

/-! ## Bytes written over a memory -/

/-- What memory `f` reads as once the bytes `bs` stand from address `o` on. -/
def overlay (o : Nat) (bs : List Byte) (f : Nat → Byte) (a : Nat) : Byte :=
  if a < o then f a else (bs[a - o]?).getD (f a)

@[simp] theorem overlay_nil (o : Nat) (f : Nat → Byte) : overlay o [] f = f := by
  funext a
  simp [overlay]

/-- One byte. -/
theorem overlay_singleton (o : Nat) (b : Byte) (f : Nat → Byte) (a : Nat) :
    overlay o [b] f a = if a = o then b else f a := by
  obtain hlt | rfl | hgt := Nat.lt_trichotomy a o
  · simp [overlay, hlt, hlt.ne]
  · simp [overlay]
  · simp [overlay, hgt.ne', hgt.not_gt, List.getElem?_eq_none (l := [b]) (show 1 ≤ a - o by omega)]

/-- Bytes after bytes. -/
theorem overlay_append (o : Nat) (bs cs : List Byte) (f : Nat → Byte) (a : Nat) :
    overlay o (bs ++ cs) f a = overlay (o + bs.length) cs (overlay o bs f) a := by
  by_cases h1 : a < o
  · simp [overlay, h1, show a < o + bs.length by omega]
  · by_cases h2 : a < o + bs.length
    · simp [overlay, h1, h2, List.getElem?_append_left (show a - o < bs.length by omega)]
    · have hlen : bs.length ≤ a - o := by omega
      simp [overlay, h1, h2, List.getElem?_append_right hlen, List.getElem?_eq_none hlen,
        show a - o - bs.length = a - (o + bs.length) by omega]

/-- Two bytes. -/
theorem overlay_pair (o : Nat) (b0 b1 : Byte) (f : Nat → Byte) (a : Nat) :
    overlay o [b0, b1] f a = if a = o then b0 else if a = o + 1 then b1 else f a := by
  rw [← List.singleton_append, overlay_append, overlay_singleton, overlay_singleton]
  by_cases h : a = o <;> simp [h]

/-- One of the bytes is written again. -/
theorem overlay_set {bs : List Byte} {p : Nat} (hp : p < bs.length) (v : Byte) (f : Nat → Byte) (a : Nat) :
    overlay 0 (bs.set p v) f a = if a = p then v else overlay 0 bs f a := by
  by_cases h : a = p
  · subst h
    simp [overlay, hp]
  · simp [overlay, h, List.getElem?_set_ne (Ne.symm h)]

/-- Above the bytes the memory is as it was. -/
theorem overlay_of_le {bs : List Byte} {a : Nat} (h : bs.length ≤ a) (f : Nat → Byte) :
    overlay 0 bs f a = f a := by simp [overlay, h]

/-- A byte written to OMEM overlays it. -/
theorem State.omemByte_setOmem_overlay (s : State) (o : Nat) (b : Byte) (a : Nat) :
    (s.setOmem (s.omem.set o b)).omemByte a = overlay o [b] s.omemByte a := by
  rw [State.omemByte_setOmem_set, overlay_singleton]

/-- So do two bytes written one after the other. -/
theorem State.omemByte_setOmem_overlay_pair (s : State) (o : Nat) (b0 b1 : Byte) (a : Nat) :
    (s.setOmem ((s.omem.set o b0).set (o + 1) b1)).omemByte a = overlay o [b0, b1] s.omemByte a := by
  have h := State.omemByte_setOmem_set (s.setOmem (s.omem.set o b0)) (o + 1) a b1
  rw [← List.singleton_append, overlay_append, overlay_singleton, ← State.omemByte_setOmem_overlay]
  exact h

/-! ## What the index advance and the trace update change (R177, R178) -/

section
variable (s : State)

theorem advanceChunk_eq :
    advanceChunk s = { s with phase := (advanceChunk s).phase, chunkIdx := (advanceChunk s).chunkIdx } := by
  obtain ⟨_, h⟩ | ⟨_, h⟩ := advanceChunk_cases s <;> rw [h]

theorem updateTrace_eq :
    updateTrace s = { s with
      bestSavings := (updateTrace s).bestSavings, peakCursor := (updateTrace s).peakCursor
      spDec := (updateTrace s).spDec, spEnc := (updateTrace s).spEnc } := by
  obtain ⟨_, h⟩ | ⟨_, h⟩ := updateTrace_cases s <;> rw [h]

end

/-- R178, on a state whose slot is that of `s`. -/
theorem indexAfter_advanceChunk {s u : State} (hph : u.phase = .encChunk) (hi : u.chunkIdx = s.chunkIdx) :
    IndexAfter s (advanceChunk u) := by
  unfold IndexAfter
  rw [← hi]
  obtain ⟨hlt, ha⟩ | ⟨h7, ha⟩ := advanceChunk_cases u <;> rw [ha]
  · simp [hlt.ne, hph]
  · simp [h7]

/-! ## A chunk is emitted (R175 to R178) -/

/-- What a chunk step with input left does: `consumed` input bytes became the stream bytes `bs`, FLAG_ACC is
`acc`, and the trace and the index moved on. -/
structure ChunkEmitted (consumed : Nat) (bs : List Byte) (acc : Byte) (s t : State) : Prop where
  frame  : t = { s with
    outLen := t.outLen, omem := t.omem, cursor := t.cursor, spDec := t.spDec, spEnc := t.spEnc
    bestSavings := t.bestSavings, peakCursor := t.peakCursor, search := t.search, flagAcc := acc
    phase := t.phase, chunkIdx := t.chunkIdx }
  cursor : t.cursor.toNat = s.cursor.toNat + consumed
  outLen : t.outLen.toNat = s.outLen.toNat + bs.length
  bytes  : ∀ a, t.omemByte a = overlay s.outLen.toNat bs s.omemByte a
  trace  : TraceAfter consumed bs.length s t
  index  : IndexAfter s t

/-- The counters of a chunk that fits the registers. -/
theorem traceAfter_updateTrace {s u : State} {consumed emitted : Nat}
    (hc : u.cursor.toNat = s.cursor.toNat + consumed) (ho : u.outLen.toNat = s.outLen.toNat + emitted)
    (hd : u.spDec.toNat = s.spDec.toNat + consumed) (he : u.spEnc.toNat = s.spEnc.toNat + emitted)
    (hb : u.bestSavings = s.bestSavings) (hp : u.peakCursor = s.peakCursor) :
    TraceAfter consumed emitted s (updateTrace u) := by
  have hlt := u.cursor.isLt
  simp only [TraceAfter, ← hc, ← ho]
  obtain ⟨hn, h⟩ | ⟨hn, h⟩ := updateTrace_cases u <;> rw [h] <;>
    simp only [newPeak, savings, decide_eq_true_eq, decide_eq_false_iff_not, hb] at hn
  · rw [if_pos hn]
    refine ⟨?_, rfl, rfl, rfl⟩
    simp only [savings, BitVec.toNat_ofNat]
    omega
  · rw [if_neg hn]
    exact ⟨hb, hp, hd, he⟩

/-- R175 to R178 after the bytes are written: the registers move, each within its width. -/
theorem chunkEmitted_of_counted {s : State} {r : SearchRegs} {m : Memory} {acc : Byte} {consumed : Nat}
    {bs : List Byte} (hph : s.phase = .encChunk) (hc : s.cursor.toNat + consumed < 2 ^ 24)
    (ho : s.outLen.toNat + bs.length < 2 ^ 25) (hd : s.spDec.toNat ≤ s.cursor.toNat)
    (he : s.spEnc.toNat ≤ s.outLen.toNat)
    (hm : ∀ a, (s.setOmem m).omemByte a = overlay s.outLen.toNat bs s.omemByte a) :
    ChunkEmitted consumed bs acc s (advanceChunk (updateTrace
      { countChunk consumed bs.length ((s.setSearch r).setOmem m) with flagAcc := acc })) := by
  generalize hu : ({ countChunk consumed bs.length ((s.setSearch r).setOmem m) with flagAcc := acc } : State) = u
  have hcur : u.cursor.toNat = s.cursor.toNat + consumed := hu ▸ Nat.mod_eq_of_lt hc
  have hout : u.outLen.toNat = s.outLen.toNat + bs.length := hu ▸ Nat.mod_eq_of_lt ho
  have hdec : u.spDec.toNat = s.spDec.toNat + consumed :=
    hu ▸ Nat.mod_eq_of_lt (show s.spDec.toNat + consumed < 2 ^ 24 by omega)
  have henc : u.spEnc.toNat = s.spEnc.toNat + bs.length :=
    hu ▸ Nat.mod_eq_of_lt (show s.spEnc.toNat + bs.length < 2 ^ 25 by omega)
  exact {
    frame := by rw [advanceChunk_eq, updateTrace_eq, ← hu]; rfl
    cursor := by rw [advanceChunk_eq, updateTrace_eq]; exact hcur
    outLen := by rw [advanceChunk_eq, updateTrace_eq]; exact hout
    bytes := by rw [advanceChunk_eq, updateTrace_eq, ← hu]; exact hm
    trace := by rw [advanceChunk_eq]; exact traceAfter_updateTrace hcur hout hdec henc (hu ▸ rfl) (hu ▸ rfl)
    index := indexAfter_advanceChunk (by rw [updateTrace_eq, ← hu]; exact hph)
      (by rw [updateTrace_eq, ← hu]; rfl) }

/-! ## Room for what a step writes (R183) -/

/-- The longest stream that START lets through fits OUT_LEN's width. -/
theorem outBound_lt (P : Preset) (n : BitVec 24) : outBound P n.toNat < 2 ^ 25 := by
  have hn := n.isLt
  unfold outBound ceilEighth
  split_ifs <;> omega

/-- The output before slot `i`, with `i = 8` for the block's end: InBlockBound and BoundaryBound in one. -/
def SlotBound (P : Preset) (s : State) (i : Nat) : Prop :=
  if s.cursor.toNat < s.srcLen.toNat then
    i ≤ s.cursor.toNat ∧ s.outLen.toNat ≤ s.cursor.toNat + (s.cursor.toNat - i) / 8 + 1
  else
    1 ≤ i ∧ s.outLen.toNat ≤ s.srcLen.toNat + ceilEighth s.srcLen.toNat + (if P.zeroFill then i - 1 else 0)

theorem inBlockBound_iff {P : Preset} {s : State} : InBlockBound P s ↔ SlotBound P s s.chunkIdx.val := Iff.rfl

/-- After the eighth slot the bound between blocks holds. -/
theorem SlotBound.boundary {P : Preset} {s : State} (h : SlotBound P s 8) : BoundaryBound P s := by
  unfold SlotBound at h
  unfold BoundaryBound outBound
  split_ifs at h ⊢ <;> omega

/-- What the search finds at CURSOR is not longer than the input left (40_match_search.md R141). -/
theorem recLen_le_rest {rd : Nat → Byte} {P : Preset} {n c : Nat} :
    (findLongestMatch rd P n c).recLen ≤ n - c :=
  (findLongestMatch_record rd P n c).2.1.trans (min_le_right _ _)

section
variable {P : Preset} {s : State} (room : EncodeRoom P s)
include room

/-- A block start with input left has room for the flag byte. -/
theorem EncodeRoom.flag_fits (hb : BoundaryBound P s) (hc : s.cursor.toNat < s.srcLen.toNat) :
    s.outLen.toNat < s.params.omemSize ∧ s.outLen.toNat + 1 < 2 ^ 25 := by
  have hfit := room.outFits
  have hn := s.srcLen.isLt
  rw [BoundaryBound, if_pos hc] at hb
  unfold outBound ceilEighth at hfit
  omega

/-- A slot with input left has room for a chunk that is not longer than what it encodes. -/
theorem EncodeRoom.chunk_fits (hb : InBlockBound P s) (hc : s.cursor.toNat < s.srcLen.toNat)
    {consumed emitted : Nat} (he : emitted ≤ consumed) (hn : consumed ≤ s.srcLen.toNat - s.cursor.toNat) :
    s.outLen.toNat + emitted ≤ s.params.omemSize ∧ s.cursor.toNat + consumed < 2 ^ 24 ∧
      s.outLen.toNat + emitted < 2 ^ 25 := by
  have hfit := room.outFits
  have hlt := s.srcLen.isLt
  rw [InBlockBound, if_pos hc] at hb
  unfold outBound ceilEighth at hfit
  omega

/-- A slot after the input is exhausted has room for a filler. -/
theorem EncodeRoom.filler_fits (hb : InBlockBound P s) (hc : s.srcLen.toNat ≤ s.cursor.toNat)
    (hz : P.zeroFill = true) : s.outLen.toNat < s.params.omemSize ∧ s.outLen.toNat + 1 < 2 ^ 25 := by
  have hfit := room.outFits
  have hlt := outBound_lt P s.srcLen
  have hi := s.chunkIdx.isLt
  rw [InBlockBound, if_neg (not_lt.2 hc)] at hb
  simp only [outBound, hz, if_true] at hfit hlt hb
  omega

/-- The output so far is in OMEM, so the flag byte's address is. -/
theorem EncodeRoom.flagPtr_fits (hb : BoundaryBound P s) (hp : s.flagPtr.toNat < s.outLen.toNat) :
    s.flagPtr.toNat < s.params.omemSize := by
  have hfit := room.outFits
  have hcur := room.cursorIn
  unfold BoundaryBound at hb
  split_ifs at hb
  · unfold outBound ceilEighth at hfit
    omega
  · omega

end

/-! ## What each step does, as a statement of the two states -/

/-- R172 with input left. -/
structure BlockStarted (s t : State) : Prop where
  frame  : t = { s with
    flagPtr := s.outLen, outLen := t.outLen, spEnc := t.spEnc, flagAcc := 0, chunkIdx := 0
    phase := .encChunk, omem := t.omem }
  outLen : t.outLen.toNat = s.outLen.toNat + 1
  spEnc  : t.spEnc.toNat = s.spEnc.toNat + 1
  bytes  : ∀ a, t.omemByte a = overlay s.outLen.toNat [0] s.omemByte a

/-- The stream bytes of a slot after the input is exhausted (R173). -/
def fillerBytes (P : Preset) : List Byte := if P.zeroFill then [0] else []

theorem fillerBytes_zeroFill {P : Preset} (h : P.zeroFill = true) : fillerBytes P = [0] := if_pos h

theorem fillerBytes_noFill {P : Preset} (h : P.zeroFill = false) : fillerBytes P = [] := by simp [fillerBytes, h]

/-- R173. -/
structure SlotExhausted (P : Preset) (s t : State) : Prop where
  frame  : t = { s with outLen := t.outLen, omem := t.omem, phase := t.phase, chunkIdx := t.chunkIdx }
  index  : IndexAfter s t
  outLen : t.outLen.toNat = s.outLen.toNat + (fillerBytes P).length
  bytes  : ∀ a, t.omemByte a = overlay s.outLen.toNat (fillerBytes P) s.omemByte a
  omem   : P.zeroFill = false → t.omem = s.omem

/-- R179. -/
structure FlagWritten (s t : State) : Prop where
  frame : t = { s with omem := t.omem, phase := .encBlock }
  bytes : ∀ a, t.omemByte a = if a = s.flagPtr.toNat then s.flagAcc else s.omemByte a

/-! ## The equation of each phase's step -/

theorem engineMove_blockStart {s : State} (hph : s.phase = .encBlock) (hc : s.cursor.toNat < s.srcLen.toNat)
    (hm : s.outLen.toNat < s.params.omemSize) :
    engineMove s = .ok { s.setOmem (s.omem.set s.outLen.toNat 0) with
      flagPtr := s.outLen
      outLen := BitVec.ofNat 25 (s.outLen.toNat + 1)
      spEnc := BitVec.ofNat 25 (s.spEnc.toNat + 1)
      flagAcc := 0
      chunkIdx := 0
      phase := .encChunk } := by
  simp only [engineMove, hph, blockStep, if_pos hc, State.writeOmem_of_lt _ hm]

theorem engineMove_end {s : State} (hph : s.phase = .encBlock) (hc : s.srcLen.toNat ≤ s.cursor.toNat) :
    engineMove s = .ok (complete s) := by
  simp only [engineMove, hph, blockStep, if_neg (not_lt.2 hc)]

theorem engineMove_flush {s : State} (hph : s.phase = .encFlush) (hm : s.flagPtr.toNat < s.params.omemSize) :
    engineMove s =
      .ok { s.setOmem (s.omem.set s.flagPtr.toNat s.flagAcc) with phase := .encBlock } := by
  simp only [engineMove, hph, flushStep, State.writeOmem_of_lt _ hm]

theorem engineMove_filler {s : State} {P : Preset} (hph : s.phase = .encChunk) (hP : s.preset = some P)
    (hc : s.srcLen.toNat ≤ s.cursor.toNat) (hz : P.zeroFill = true) (hm : s.outLen.toNat < s.params.omemSize) :
    engineMove s = .ok (advanceChunk { s.setOmem (s.omem.set s.outLen.toNat 0) with
      outLen := BitVec.ofNat 25 (s.outLen.toNat + 1) }) := by
  simp only [engineMove, hph, chunkStep, if_neg (not_lt.2 hc), exhaustedStep, hP, if_pos hz,
    State.writeOmem_of_lt _ hm]

theorem engineMove_empty {s : State} {P : Preset} (hph : s.phase = .encChunk) (hP : s.preset = some P)
    (hc : s.srcLen.toNat ≤ s.cursor.toNat) (hz : P.zeroFill = false) :
    engineMove s = .ok (advanceChunk s) := by
  simp [engineMove, hph, chunkStep, if_neg (not_lt.2 hc), exhaustedStep, hP, hz]

/-- The selector's step, once the chunk is known to be written. -/
theorem engineMove_selector {s s1 : State} {P : Preset} (hph : s.phase = .encChunk) (room : EncodeRoom P s)
    (hc : s.cursor.toNat < s.srcLen.toNat)
    (he : emitChunk P (findLongestMatch s.imemByte P s.srcLen.toNat s.cursor.toNat)
      (s.setSearch (findLongestMatch s.imemByte P s.srcLen.toNat s.cursor.toNat)) = .ok s1) :
    engineMove s = .ok (advanceChunk (updateTrace s1)) := by
  simp only [engineMove, hph, chunkStep, if_pos hc, selectorStep, searchAtCursor_eq room.preset room.srcFits hc, he]

theorem emitChunk_ref {P : Preset} {r : SearchRegs} {s : State} (hl : 2 < r.recLen)
    (h : s.outLen.toNat + 1 < s.params.omemSize) :
    emitChunk P r s = .ok { countChunk r.recLen 2 (s.setOmem ((s.omem.set s.outLen.toNat
      ((refField r.recLen (s.cursor.toNat - r.recPos - P.posSubtract)).extractLsb' 8 8)).set (s.outLen.toNat + 1)
      ((refField r.recLen (s.cursor.toNat - r.recPos - P.posSubtract)).extractLsb' 0 8))) with
      flagAcc := accWithRef s.flagAcc s.chunkIdx } := by
  have h0 : s.outLen.toNat < s.params.omemSize := by omega
  simp [emitChunk, hl, emitRef, State.writeOmem, h0, h, State.setOmem]

theorem emitChunk_lit {P : Preset} {r : SearchRegs} {s : State} (hl : r.recLen ≤ 2)
    (h : s.outLen.toNat < s.params.omemSize) :
    emitChunk P r s =
      .ok (countChunk 1 1 (s.setOmem (s.omem.set s.outLen.toNat (s.imemByte s.cursor.toNat)))) := by
  simp only [emitChunk, if_neg (not_lt.2 hl), emitLit, State.writeOmem_of_lt _ h]

/-! ## The step of each phase, from a state with room -/

section
variable {P : Preset} {s : State} (room : EncodeRoom P s)
include room

theorem EncodeRoom.blockStart (hph : s.phase = .encBlock) (hb : BoundaryBound P s)
    (hc : s.cursor.toNat < s.srcLen.toNat) : ∃ t, engineMove s = .ok t ∧ BlockStarted s t := by
  obtain ⟨hm, hw⟩ := room.flag_fits hb hc
  have henc := room.spEncIn
  exact ⟨_, engineMove_blockStart hph hc hm, {
    frame := rfl
    outLen := Nat.mod_eq_of_lt hw
    spEnc := Nat.mod_eq_of_lt (by omega)
    bytes := s.omemByte_setOmem_overlay s.outLen.toNat 0 }⟩

/-- R174 with R175: a match longer than 2. -/
theorem EncodeRoom.emitsRef (hph : s.phase = .encChunk) (hb : InBlockBound P s)
    (hc : s.cursor.toNat < s.srcLen.toNat)
    (hl : 2 < (findLongestMatch s.imemByte P s.srcLen.toNat s.cursor.toNat).recLen) :
    let r := findLongestMatch s.imemByte P s.srcLen.toNat s.cursor.toNat
    ∃ t, engineMove s = .ok t ∧ ChunkEmitted r.recLen
      (refBytes r.recLen (s.cursor.toNat - r.recPos - P.posSubtract)) (accWithRef s.flagAcc s.chunkIdx) s t := by
  intro r
  obtain ⟨hm, hcw, how⟩ := room.chunk_fits hb hc (show 2 ≤ r.recLen from hl.le) recLen_le_rest
  exact ⟨_, engineMove_selector hph room hc (emitChunk_ref hl hm),
    chunkEmitted_of_counted (r := r) hph hcw how room.spDecIn room.spEncIn
      (s.omemByte_setOmem_overlay_pair s.outLen.toNat _ _)⟩

/-- R174 with R176: no match longer than 2. -/
theorem EncodeRoom.emitsLit (hph : s.phase = .encChunk) (hb : InBlockBound P s)
    (hc : s.cursor.toNat < s.srcLen.toNat)
    (hl : (findLongestMatch s.imemByte P s.srcLen.toNat s.cursor.toNat).recLen ≤ 2) :
    ∃ t, engineMove s = .ok t ∧ ChunkEmitted 1 [s.imemByte s.cursor.toNat] s.flagAcc s t := by
  obtain ⟨hm, hcw, how⟩ := room.chunk_fits hb hc (le_refl 1) (by omega)
  exact ⟨_, engineMove_selector hph room hc (emitChunk_lit hl hm),
    chunkEmitted_of_counted hph hcw how room.spDecIn room.spEncIn
      (s.omemByte_setOmem_overlay s.outLen.toNat _)⟩

/-- R173: no input left. -/
theorem EncodeRoom.exhausted (hph : s.phase = .encChunk) (hb : InBlockBound P s)
    (hc : s.srcLen.toNat ≤ s.cursor.toNat) : ∃ t, engineMove s = .ok t ∧ SlotExhausted P s t := by
  cases hz : P.zeroFill with
  | true =>
    obtain ⟨hm, hw⟩ := room.filler_fits hb hc hz
    refine ⟨_, engineMove_filler hph room.preset hc hz hm, ?_, indexAfter_advanceChunk hph rfl, ?_, ?_,
      by simp [hz]⟩ <;> rw [advanceChunk_eq]
    · rfl
    · rw [fillerBytes_zeroFill hz]
      exact Nat.mod_eq_of_lt hw
    · rw [fillerBytes_zeroFill hz]
      exact s.omemByte_setOmem_overlay s.outLen.toNat 0
  | false =>
    refine ⟨_, engineMove_empty hph room.preset hc hz, ?_, indexAfter_advanceChunk hph rfl, ?_, ?_,
      fun _ => ?_⟩ <;> rw [advanceChunk_eq]
    · rw [fillerBytes_noFill hz]
      rfl
    · rw [fillerBytes_noFill hz, overlay_nil]
      exact fun _ => rfl

theorem EncodeRoom.flush (hph : s.phase = .encFlush) (hb : BoundaryBound P s)
    (hp : s.flagPtr.toNat < s.outLen.toNat) : ∃ t, engineMove s = .ok t ∧ FlagWritten s t :=
  ⟨_, engineMove_flush hph (room.flagPtr_fits hb hp), {
    frame := rfl
    bytes := fun a => State.omemByte_setOmem_set s s.flagPtr.toNat a s.flagAcc }⟩

end

end Sys2Proof.Machine

namespace Sys2Proof.Machine

/-! ## The obligations about single steps -/

/-- An accepted ENCODE START stores CTRL and does R171's writes. -/
theorem startCommand_encode_of_ready {mode : BitVec 2} {ie : Bool} {P : Preset} {s : State}
    (h : EncodeReady mode P s) :
    startCommand opEncode mode ie s = acceptEncode (s.setCtrl { op := opEncode, mode := mode, ie := ie }) := by
  have hcheck : checkStart opEncode mode (s.setCtrl { op := opEncode, mode := mode, ie := ie }) = none := by
    rw [checkStart_of_preset (.inr rfl) h.preset]
    simp [checkWithPreset, opEncode, opFind, not_lt.2 h.srcFits, not_lt.2 h.outFits]
  obtain ⟨hb, -⟩ | ⟨-, e, he, -⟩ | ⟨-, -, heq⟩ := startCommand_cases opEncode mode ie s
  · simp [h.idle] at hb
  · simp [hcheck] at he
  · rw [heq, if_neg (by decide)]

/-- Settles O22: no cause applies, so the command is accepted, and an accepted ENCODE is R171's writes. -/
theorem encodeStartInitialises : Obligations.EncodeStartInitialises := by
  intro mode ie P s h
  rw [exec, execEncode, startCommand_encode_of_ready h]
  rfl

/-! ### What the invariant says in each of ENCODE's phases -/

section
variable {s : State} (h : s.Inv)
include h

theorem State.Inv.encBlock (hph : s.phase = .encBlock) : ∃ P, EncodeRoom P s ∧ BoundaryBound P s := by
  simpa only [State.RunInv, hph] using h.run

theorem State.Inv.encChunk {P : Preset} (hph : s.phase = .encChunk) (hP : s.preset = some P) :
    EncodeRoom P s ∧ InBlockBound P s := by
  obtain ⟨Q, room, hb, -⟩ : ∃ Q, EncodeRoom Q s ∧ InBlockBound Q s ∧ s.flagPtr.toNat < s.outLen.toNat := by
    simpa only [State.RunInv, hph] using h.run
  obtain rfl : Q = P := Option.some.inj (room.preset.symm.trans hP)
  exact ⟨room, hb⟩

theorem State.Inv.encFlush (hph : s.phase = .encFlush) :
    ∃ P, EncodeRoom P s ∧ BoundaryBound P s ∧ s.flagPtr.toNat < s.outLen.toNat := by
  simpa only [State.RunInv, hph] using h.run

theorem State.Inv.accepted (hph : s.phase ≠ .idle) : s.status = Status.accepted :=
  h.busyClean (h.busyPhase.2 hph)

end

/-- Settles O29: the invariant leaves room for the placeholder, and with no input left CURSOR is at most N. -/
theorem blockStartWritesThePlaceholder : Obligations.BlockStartWritesThePlaceholder := by
  intro s hinv hph
  obtain ⟨P, room, hb⟩ := hinv.encBlock hph
  simp only [engineStep_next_iff]
  split_ifs with hc
  · obtain ⟨t, hstep, hframe, hout, henc, hbytes⟩ := room.blockStart hph hb hc
    exact ⟨t, hstep, hframe, hout, henc, fun a => (hbytes a).trans (overlay_singleton ..)⟩
  · refine ⟨BitVec.eq_of_toNat_eq (le_antisymm room.cursorIn (not_lt.1 hc)), ?_⟩
    rw [engineMove_end hph (not_lt.1 hc), complete, hinv.accepted (by simp [hph])]
    rfl

/-- Settles O30: the slot has room for a filler, and without zeroFill only the index moves. -/
theorem exhaustedSlotWritesAFillerOrNothing : Obligations.ExhaustedSlotWritesAFillerOrNothing := by
  intro s P hinv hph hP hc
  obtain ⟨room, hb⟩ := hinv.encChunk hph hP
  obtain ⟨t, hstep, hframe, hindex, hout, hbytes, hmem⟩ := room.exhausted hph hb hc
  refine ⟨t, engineStep_next_iff.2 hstep, hframe, hindex, fun hz => ?_, fun hz => ⟨?_, hmem hz⟩⟩
  · rw [fillerBytes_zeroFill hz] at hout hbytes
    exact ⟨hout, fun a => (hbytes a).trans (overlay_singleton ..)⟩
  · rw [fillerBytes_noFill hz] at hout
    exact BitVec.eq_of_toNat_eq hout

/-- R103's two bytes, as R175 writes them. -/
theorem refBytes_eq {len disp : Nat} (h3 : 3 ≤ len) (h18 : len ≤ 18) (hd : disp ≤ 0xFFF) :
    refBytes len disp = [BitVec.ofNat 8 ((len - 3) * 16 + disp / 256), BitVec.ofNat 8 (disp % 256)] := by
  have hfield : (refField len disp).toNat = (len - 3) * 4096 + disp := by
    rw [refField, BitVec.toNat_append, BitVec.toNat_ofNat, BitVec.toNat_ofNat,
      ← Nat.shiftLeft_add_eq_or_of_lt (by omega), Nat.shiftLeft_eq]
    omega
  simp only [refBytes, fieldBytes, List.cons.injEq, and_true]
  constructor <;> apply BitVec.eq_of_toNat_eq <;>
    rw [BitVec.extractLsb'_toNat, hfield, Nat.shiftRight_eq_div_pow, BitVec.toNat_ofNat] <;> omega

/-- CTRL.MODE selects the preset of one of the two kinds of stream (10_state.md R32). -/
theorem exists_kind_of_presetOf {mode : BitVec 2} {P : Preset} (h : presetOf mode = some P) :
    ∃ kind : StreamKind, P = kind.preset := by
  obtain ⟨-, rfl⟩ | ⟨-, rfl⟩ := presetOf_eq_some h
  · exact ⟨.block, rfl⟩
  · exact ⟨.image, rfl⟩

/-- R151: the stored displacement of a match longer than 2 fits its field, and is the distance less
posSubtract. -/
theorem findLongestMatch_ref_ranges {rd : Nat → Byte} {n c : Nat} (kind : StreamKind)
    (h : 2 < (findLongestMatch rd kind.preset n c).recLen) :
    let r := findLongestMatch rd kind.preset n c
    r.recPos + r.recLen ≤ c ∧ r.recLen ≤ 18 ∧ kind.preset.posSubtract ≤ c - r.recPos ∧
      c - r.recPos - kind.preset.posSubtract ≤ 0xFFF := by
  dsimp only
  obtain ⟨hws, hend, hlen⟩ := findLongestMatch_ranges (rd := rd) (P := kind.preset) (n := n) (c := c) (by omega)
  obtain ⟨hmax, hsub, -, hdiff⟩ := preset_limits kind
  omega

/-- Settles O31: the emitted field is R103's, its displacement within 12 bits by R151. -/
theorem longMatchIsEmittedAsReference : Obligations.LongMatchIsEmittedAsReference := by
  intro s P hinv hph hP hc
  dsimp only
  intro hl
  obtain ⟨room, hb⟩ := hinv.encChunk hph hP
  obtain ⟨kind, rfl⟩ := exists_kind_of_presetOf hP
  obtain ⟨-, h18, -, hdisp⟩ := findLongestMatch_ref_ranges kind hl
  obtain ⟨t, hstep, hframe, hcur, hout, hbytes, htrace, hindex⟩ := room.emitsRef hph hb hc hl
  refine ⟨t, engineStep_next_iff.2 hstep, hframe, hcur, hout, fun a => ?_, htrace, hindex⟩
  rw [hbytes a, refBytes_eq hl h18 hdisp, overlay_pair]

/-- Settles O32: the selector discards a match of length at most 2 and emits the byte at CURSOR. -/
theorem shortMatchIsEmittedAsLiteral : Obligations.ShortMatchIsEmittedAsLiteral := by
  intro s P hinv hph hP hc
  dsimp only
  intro hl
  obtain ⟨room, hb⟩ := hinv.encChunk hph hP
  obtain ⟨t, hstep, hframe, hcur, hout, hbytes, htrace, hindex⟩ := room.emitsLit hph hb hc hl
  exact ⟨t, engineStep_next_iff.2 hstep, hframe, hcur, hout,
    fun a => (hbytes a).trans (overlay_singleton ..), htrace, hindex⟩

/-- Settles O33: FLAG_PTR is below OUT_LEN, so the flag byte's write is inside OMEM. -/
theorem flushWritesTheFlagByte : Obligations.FlushWritesTheFlagByte := by
  intro s hinv hph
  obtain ⟨P, room, hb, hp⟩ := hinv.encFlush hph
  obtain ⟨t, hstep, hframe, hbytes⟩ := room.flush hph hb hp
  exact ⟨t, engineStep_next_iff.2 hstep, hframe, hbytes⟩

end Sys2Proof.Machine

/-! # 41_greedy_encoder.md: the steps of a run compute EncodeAll (R181) -/

namespace Sys2Proof.Machine

/-! ## EncodeAll's slot, case by case -/

/-- `consumed` input bytes become the stream bytes `bs`, with the block's flags then `flags` (R175 to R177). -/
def EncodeVars.chunk (consumed : Nat) (bs : List Byte) (flags : Byte) (e : EncodeVars) : EncodeVars :=
  { e with
    out := e.out ++ bs, flags := flags, cur := e.cur + consumed, spDec := e.spDec + consumed
    spEnc := e.spEnc + bs.length }.trace

/-- A slot after the input is exhausted (R173). -/
def EncodeVars.fill (P : Preset) (e : EncodeVars) : EncodeVars :=
  { e with out := e.out ++ fillerBytes P, fillers := e.fillers + (fillerBytes P).length }

/-- A block's placeholder is written and counted (R172). -/
def EncodeVars.startBlock (e : EncodeVars) : EncodeVars :=
  { e with out := e.out ++ [0], spEnc := e.spEnc + 1, flags := 0, blocks := e.blocks + 1 }

/-- The flag byte replaces the placeholder (R179). -/
def EncodeVars.flush (fp : Nat) (e : EncodeVars) : EncodeVars := { e with out := e.out.set fp e.flags }

theorem encodeBlock_eq (rd : Nat → Byte) (P : Preset) (n : Nat) (e : EncodeVars) :
    encodeBlock rd P n e = (encodeSlots rd P n 8 0 e.startBlock).flush e.out.length := rfl

section
variable (e : EncodeVars)

@[simp] theorem EncodeVars.trace_cur : e.trace.cur = e.cur := by unfold trace; split <;> rfl
@[simp] theorem EncodeVars.trace_out : e.trace.out = e.out := by unfold trace; split <;> rfl
@[simp] theorem EncodeVars.trace_flags : e.trace.flags = e.flags := by unfold trace; split <;> rfl
@[simp] theorem EncodeVars.trace_blocks : e.trace.blocks = e.blocks := by unfold trace; split <;> rfl

variable (c : Nat) (bs : List Byte) (f : Byte)

@[simp] theorem EncodeVars.chunk_cur : (e.chunk c bs f).cur = e.cur + c := by simp [chunk]
@[simp] theorem EncodeVars.chunk_out : (e.chunk c bs f).out = e.out ++ bs := by simp [chunk]
@[simp] theorem EncodeVars.chunk_flags : (e.chunk c bs f).flags = f := by simp [chunk]
@[simp] theorem EncodeVars.chunk_blocks : (e.chunk c bs f).blocks = e.blocks := by simp [chunk]

variable (P : Preset)

@[simp] theorem EncodeVars.fill_cur : (e.fill P).cur = e.cur := rfl
@[simp] theorem EncodeVars.fill_out : (e.fill P).out = e.out ++ fillerBytes P := rfl
@[simp] theorem EncodeVars.fill_flags : (e.fill P).flags = e.flags := rfl
@[simp] theorem EncodeVars.fill_blocks : (e.fill P).blocks = e.blocks := rfl

end

section
variable {rd : Nat → Byte} {P : Preset} {n i : Nat} {e : EncodeVars}

theorem encodeSlot_ref (hc : e.cur < n) (hl : 2 < (findLongestMatch rd P n e.cur).recLen) :
    let r := findLongestMatch rd P n e.cur
    encodeSlot rd P n i e =
      e.chunk r.recLen (refBytes r.recLen (e.cur - r.recPos - P.posSubtract)) (e.flags ||| flagBit i) := by
  simp [encodeSlot, hc, hl, EncodeVars.chunk, refBytes, fieldBytes]

theorem encodeSlot_lit (hc : e.cur < n) (hl : (findLongestMatch rd P n e.cur).recLen ≤ 2) :
    encodeSlot rd P n i e = e.chunk 1 [rd e.cur] e.flags := by
  simp [encodeSlot, hc, not_lt.2 hl, EncodeVars.chunk]

theorem encodeSlot_exhausted (hc : n ≤ e.cur) : encodeSlot rd P n i e = e.fill P := by
  cases hz : P.zeroFill <;> simp [encodeSlot, not_lt.2 hc, EncodeVars.fill, fillerBytes, hz]

/-- Inversion of a slot: a back-reference, a literal, or no input left (R173 to R176). -/
theorem encodeSlot_cases (rd : Nat → Byte) (P : Preset) (n i : Nat) (e : EncodeVars) :
    let r := findLongestMatch rd P n e.cur
    (e.cur < n ∧ 2 < r.recLen ∧ encodeSlot rd P n i e =
      e.chunk r.recLen (refBytes r.recLen (e.cur - r.recPos - P.posSubtract)) (e.flags ||| flagBit i)) ∨
    (e.cur < n ∧ r.recLen ≤ 2 ∧ encodeSlot rd P n i e = e.chunk 1 [rd e.cur] e.flags) ∨
    (n ≤ e.cur ∧ encodeSlot rd P n i e = e.fill P) := by
  intro r
  by_cases hc : e.cur < n
  · by_cases hl : 2 < r.recLen
    · exact .inl ⟨hc, hl, encodeSlot_ref hc hl⟩
    · exact .inr (.inl ⟨hc, not_lt.1 hl, encodeSlot_lit hc (not_lt.1 hl)⟩)
  · exact .inr (.inr ⟨not_lt.1 hc, encodeSlot_exhausted (not_lt.1 hc)⟩)

/-- A slot never leaves the input, and with input left it uses some (R183). -/
theorem encodeSlot_cur (rd : Nat → Byte) (P : Preset) (n i : Nat) (e : EncodeVars) :
    e.cur ≤ (encodeSlot rd P n i e).cur ∧ (e.cur < n → e.cur < (encodeSlot rd P n i e).cur) ∧
      (e.cur ≤ n → (encodeSlot rd P n i e).cur ≤ n) := by
  have hrest : (findLongestMatch rd P n e.cur).recLen ≤ n - e.cur := recLen_le_rest
  obtain ⟨hc, hl, h⟩ | ⟨hc, hl, h⟩ | ⟨hc, h⟩ := encodeSlot_cases rd P n i e <;> rw [h]
  · rw [EncodeVars.chunk_cur]
    omega
  · rw [EncodeVars.chunk_cur]
    omega
  · rw [EncodeVars.fill_cur]
    omega

theorem encodeSlots_cur (rd : Nat → Byte) (P : Preset) (n : Nat) : ∀ (left i : Nat) (e : EncodeVars),
    e.cur ≤ (encodeSlots rd P n left i e).cur ∧ (e.cur ≤ n → (encodeSlots rd P n left i e).cur ≤ n)
  | 0, _, _ => ⟨le_refl _, id⟩
  | k + 1, i, e => by
    obtain ⟨hle, -, hn⟩ := encodeSlot_cur rd P n i e
    obtain ⟨hle', hn'⟩ := encodeSlots_cur rd P n k (i + 1) (encodeSlot rd P n i e)
    exact ⟨hle.trans hle', fun h => hn' (hn h)⟩

/-- A block never leaves the input, and with input left it uses some. -/
theorem encodeBlock_cur (rd : Nat → Byte) (P : Preset) (n : Nat) (e : EncodeVars) :
    (e.cur < n → e.cur < (encodeBlock rd P n e).cur) ∧ (e.cur ≤ n → (encodeBlock rd P n e).cur ≤ n) := by
  obtain ⟨-, hlt, hn⟩ := encodeSlot_cur rd P n 0 e.startBlock
  obtain ⟨hle, hn'⟩ := encodeSlots_cur rd P n 7 1 (encodeSlot rd P n 0 e.startBlock)
  exact ⟨fun h => (hlt h).trans_le hle, fun h => hn' (hn h)⟩

/-- With fuel for every byte left the blocks end with the input (R180). -/
theorem encodeBlocks_cur (rd : Nat → Byte) (P : Preset) (n : Nat) : ∀ (fuel : Nat) (e : EncodeVars),
    e.cur ≤ n → n - e.cur ≤ fuel → (encodeBlocks rd P n fuel e).cur = n
  | 0, e, hn, hf => by
    unfold encodeBlocks
    omega
  | k + 1, e, hn, hf => by
    obtain ⟨hlt, hle⟩ := encodeBlock_cur rd P n e
    unfold encodeBlocks
    split_ifs with hc
    · have := hlt hc
      exact encodeBlocks_cur rd P n k _ (hle hn) (by omega)
    · omega

theorem encodeAll_cur (rd : Nat → Byte) (P : Preset) (n : Nat) : (encodeAll rd P n).cur = n :=
  encodeBlocks_cur rd P n n _ (Nat.zero_le n) (Nat.sub_le n 0)

/-- Only a block's start counts a block. -/
theorem encodeSlots_blocks (rd : Nat → Byte) (P : Preset) (n : Nat) : ∀ (left i : Nat) (e : EncodeVars),
    (encodeSlots rd P n left i e).blocks = e.blocks
  | 0, _, _ => rfl
  | k + 1, i, e => by
    rw [encodeSlots, encodeSlots_blocks rd P n k]
    obtain ⟨-, -, h⟩ | ⟨-, -, h⟩ | ⟨-, h⟩ := encodeSlot_cases rd P n i e <;> simp [h]

theorem encodeBlock_blocks (rd : Nat → Byte) (P : Preset) (n : Nat) (e : EncodeVars) :
    (encodeBlock rd P n e).blocks = e.blocks + 1 :=
  encodeSlots_blocks rd P n 8 0 e.startBlock

end

/-! ## What the steps keep during a run -/

/-- What ENCODE's steps but the last leave alone. -/
structure EncodeFrame (s t : State) : Prop where
  outside  : SameOutsideEngine s t
  matchPos : t.matchPos = s.matchPos
  matchLen : t.matchLen = s.matchLen
  status   : t.status = s.status

section
variable {P : Preset} {s t : State}

theorem EncodeFrame.refl (s : State) : EncodeFrame s s :=
  ⟨⟨rfl, rfl, rfl, rfl, rfl, rfl, rfl, rfl, rfl, rfl⟩, rfl, rfl, rfl⟩

theorem SameOutsideEngine.trans {u : State} (h : SameOutsideEngine s t) (h' : SameOutsideEngine t u) :
    SameOutsideEngine s u := by
  simp_all [SameOutsideEngine]

theorem EncodeFrame.trans {u : State} (h : EncodeFrame s t) (h' : EncodeFrame t u) : EncodeFrame s u :=
  ⟨h.outside.trans h'.outside, h'.matchPos.trans h.matchPos, h'.matchLen.trans h.matchLen,
    h'.status.trans h.status⟩

theorem EncodeFrame.srcLen (h : EncodeFrame s t) : t.srcLen = s.srcLen := by
  obtain ⟨-, hsrc, -⟩ := h.outside
  exact hsrc

theorem EncodeFrame.imemByte (h : EncodeFrame s t) (a : Nat) : t.imemByte a = s.imemByte a := by
  obtain ⟨-, -, himem, -, -, hpower, -⟩ := h.outside
  exact State.imemByte_congr himem hpower a

theorem BlockStarted.encodeFrame (h : BlockStarted s t) : EncodeFrame s t := by
  rw [h.frame]
  exact { EncodeFrame.refl s with }

theorem ChunkEmitted.encodeFrame {c : Nat} {bs : List Byte} {acc : Byte} (h : ChunkEmitted c bs acc s t) :
    EncodeFrame s t := by
  rw [h.frame]
  exact { EncodeFrame.refl s with }

theorem SlotExhausted.encodeFrame (h : SlotExhausted P s t) : EncodeFrame s t := by
  rw [h.frame]
  exact { EncodeFrame.refl s with }

theorem FlagWritten.encodeFrame (h : FlagWritten s t) : EncodeFrame s t := by
  rw [h.frame]
  exact { EncodeFrame.refl s with }

/-- R183 over a block start. -/
theorem EncodeRoom.after_blockStart (room : EncodeRoom P s) (h : BlockStarted s t) : EncodeRoom P t := by
  have henc : t.spEnc.toNat ≤ t.outLen.toNat := by
    rw [h.spEnc, h.outLen]
    exact Nat.succ_le_succ room.spEncIn
  rw [h.frame]
  exact { room with spEncIn := henc }

/-- R183 over a chunk. -/
theorem EncodeRoom.after_chunk (room : EncodeRoom P s) {c : Nat} {bs : List Byte} {acc : Byte}
    (h : ChunkEmitted c bs acc s t) (hn : c ≤ s.srcLen.toNat - s.cursor.toNat) : EncodeRoom P t := by
  have hin := room.cursorIn
  have hcur := h.cursor
  have hout := h.outLen
  have hbounds : t.spDec.toNat ≤ t.cursor.toNat ∧ t.spEnc.toNat ≤ t.outLen.toNat ∧
      t.bestSavings.toNat ≤ t.cursor.toNat ∧ t.peakCursor.toNat ≤ t.cursor.toNat := by
    have htrace := h.trace
    simp only [TraceAfter, ← hcur, ← hout] at htrace
    split_ifs at htrace <;> obtain ⟨hb, hp, hd, he⟩ := htrace
    · exact ⟨by simp [hd], by simp [he], by omega, hp.le⟩
    · have hdec := room.spDecIn
      have henc := room.spEncIn
      have hbest := room.bestIn
      have hpeak := room.peakIn
      simp only [hb, hp]
      omega
  obtain ⟨hd, he, hb, hp⟩ := hbounds
  have hfit : t.cursor.toNat ≤ s.srcLen.toNat := by omega
  rw [h.frame]
  exact { room with cursorIn := hfit, spDecIn := hd, spEncIn := he, bestIn := hb, peakIn := hp }

/-- R183 over a slot after the input is exhausted. -/
theorem EncodeRoom.after_exhausted (room : EncodeRoom P s) (h : SlotExhausted P s t) : EncodeRoom P t := by
  have henc : s.spEnc.toNat ≤ t.outLen.toNat := by
    rw [h.outLen]
    exact Nat.le_add_right_of_le room.spEncIn
  rw [h.frame]
  exact { room with spEncIn := henc }

/-- R183 over the flush. -/
theorem EncodeRoom.after_flush (room : EncodeRoom P s) (h : FlagWritten s t) : EncodeRoom P t := by
  rw [h.frame]
  exact { room with }

end

end Sys2Proof.Machine

namespace Sys2Proof.Machine

/-! ## Registers and OMEM follow EncodeAll's variables -/

/-- The registers hold EncodeAll's variables. -/
structure HoldsVars (e : EncodeVars) (s : State) : Prop where
  cursor      : s.cursor.toNat = e.cur
  outLen      : s.outLen.toNat = e.out.length
  spDec       : s.spDec.toNat = e.spDec
  spEnc       : s.spEnc.toNat = e.spEnc
  bestSavings : s.bestSavings.toNat = e.best
  peakCursor  : s.peakCursor.toNat = e.peak

/-- A chunk step moves the registers as EncodeAll's chunk moves its variables (R175 to R177). -/
theorem HoldsVars.chunk {e : EncodeVars} {s t : State} (h : HoldsVars e s) {c : Nat} {bs : List Byte} {acc f : Byte}
    (hem : ChunkEmitted c bs acc s t) : HoldsVars (e.chunk c bs f) t := by
  have htrace := hem.trace
  have hcur := hem.cursor
  have hout := hem.outLen
  simp only [TraceAfter, h.cursor, h.outLen, h.bestSavings] at htrace
  rw [h.cursor] at hcur
  rw [h.outLen] at hout
  unfold EncodeVars.chunk EncodeVars.trace
  simp only [newPeak, savings, List.length_append, decide_eq_true_eq, Nat.cast_add] at htrace ⊢
  split_ifs at htrace ⊢ <;> obtain ⟨hb, hp, hd, he⟩ := htrace
  · exact ⟨hcur, by simpa using hout, by simp [hd], by simp [he], by simp only; omega, hp⟩
  · exact ⟨hcur, by simpa using hout, by rw [hd, h.spDec], by rw [he, h.spEnc], by rw [hb, h.bestSavings],
      by rw [hp, h.peakCursor]⟩

/-- A state `s` of the run that began in `t0`, when EncodeAll's variables are `e`: the registers hold them,
OMEM reads as the stream over what `t0` had there, and nothing else has changed. -/
structure Simulates (t0 : State) (P : Preset) (e : EncodeVars) (s : State) : Prop where
  frame : EncodeFrame t0 s
  room  : EncodeRoom P s
  vars  : HoldsVars e s
  bytes : ∀ a, s.omemByte a = overlay 0 e.out t0.omemByte a

section
variable {t0 s t : State} {P : Preset} {e : EncodeVars} (h : Simulates t0 P e s)
include h

theorem Simulates.cursor_lt_iff : s.cursor.toNat < s.srcLen.toNat ↔ e.cur < t0.srcLen.toNat := by
  rw [h.vars.cursor, h.frame.srcLen]

/-- The search at CURSOR is EncodeAll's. -/
theorem Simulates.search_eq : findLongestMatch s.imemByte P s.srcLen.toNat s.cursor.toNat =
    findLongestMatch t0.imemByte P t0.srcLen.toNat e.cur := by
  rw [h.vars.cursor, h.frame.srcLen, funext h.frame.imemByte]

/-- Bytes written at OUT_LEN come after the stream so far. -/
theorem Simulates.bytes_append {bs : List Byte}
    (hb : ∀ a, t.omemByte a = overlay s.outLen.toNat bs s.omemByte a) (a : Nat) :
    t.omemByte a = overlay 0 (e.out ++ bs) t0.omemByte a := by
  rw [hb, overlay_append, h.vars.outLen, Nat.zero_add, funext h.bytes]

end

/-- Between blocks. -/
structure AtBlock (t0 : State) (P : Preset) (e : EncodeVars) (s : State) : Prop where
  sim   : Simulates t0 P e s
  bound : BoundaryBound P s
  phase : s.phase = .encBlock

/-- In the block whose flag byte is at `fp`, before slot `i`, or before the flush if `i` is 8. -/
structure InBlock (t0 : State) (P : Preset) (fp i : Nat) (e : EncodeVars) (s : State) : Prop where
  sim     : Simulates t0 P e s
  bound   : SlotBound P s i
  flagPtr : s.flagPtr.toNat = fp
  flagIn  : fp < e.out.length
  flagAcc : s.flagAcc = e.flags
  place   : (s.phase = .encChunk ∧ s.chunkIdx.val = i) ∨ (s.phase = .encFlush ∧ i = 8)

theorem InBlock.chunkPlace {t0 s : State} {P : Preset} {fp i : Nat} {e : EncodeVars} (h : InBlock t0 P fp i e s)
    (hi : i < 8) : s.phase = .encChunk ∧ s.chunkIdx.val = i := by
  obtain hp | ⟨-, h8⟩ := h.place
  · exact hp
  · omega

/-- R178 in a run. -/
theorem IndexAfter.place {s t : State} (h : IndexAfter s t) :
    (t.phase = .encChunk ∧ t.chunkIdx.val = s.chunkIdx.val + 1) ∨
      (t.phase = .encFlush ∧ s.chunkIdx.val + 1 = 8) := by
  unfold IndexAfter at h
  split_ifs at h with h7
  · exact .inr ⟨h.1, by omega⟩
  · exact .inl h

/-- R183's bound over a chunk that is not longer than what it encodes. -/
theorem SlotBound.after_chunk {P : Preset} {s t : State} {c : Nat} {bs : List Byte} {acc : Byte}
    (hb : InBlockBound P s) (h : ChunkEmitted c bs acc s t) (hc : s.cursor.toNat < s.srcLen.toNat)
    (hpos : 1 ≤ c) (hlen : bs.length ≤ c) (hn : c ≤ s.srcLen.toNat - s.cursor.toNat) :
    SlotBound P t (s.chunkIdx.val + 1) := by
  rw [InBlockBound, if_pos hc] at hb
  rw [SlotBound, h.encodeFrame.srcLen, h.cursor, h.outLen]
  unfold ceilEighth
  split_ifs <;> omega

/-- R183's bound over a slot after the input is exhausted. -/
theorem SlotBound.after_exhausted {P : Preset} {s t : State} (hb : InBlockBound P s) (h : SlotExhausted P s t)
    (hc : s.srcLen.toNat ≤ s.cursor.toNat) : SlotBound P t (s.chunkIdx.val + 1) := by
  have hcur : t.cursor = s.cursor := by rw [h.frame]
  rw [InBlockBound, if_neg (not_lt.2 hc)] at hb
  rw [SlotBound, h.encodeFrame.srcLen, hcur, if_neg (not_lt.2 hc), h.outLen]
  unfold fillerBytes
  split_ifs at hb ⊢ with hz <;> simp only [List.length_cons, List.length_nil] <;> omega

/-! ## Each step keeps the relation -/

section
variable {t0 s : State} {P : Preset} {fp i : Nat} {e : EncodeVars}

/-- R172. -/
theorem AtBlock.start (h : AtBlock t0 P e s) (hc : e.cur < t0.srcLen.toNat) :
    ∃ t, engineMove s = .ok t ∧ InBlock t0 P e.out.length 0 e.startBlock t := by
  obtain ⟨sim, hb, hph⟩ := h
  have hcs := sim.cursor_lt_iff.2 hc
  obtain ⟨t, hstep, ht⟩ := sim.room.blockStart hph hb hcs
  have hcur : t.cursor = s.cursor := by rw [ht.frame]
  have hvars : HoldsVars e.startBlock t := by
    have hout : t.outLen.toNat = (e.out ++ [0]).length := by rw [ht.outLen, sim.vars.outLen, List.length_append]; rfl
    have henc : t.spEnc.toNat = e.spEnc + 1 := by rw [ht.spEnc, sim.vars.spEnc]
    rw [ht.frame]
    exact { sim.vars with outLen := hout, spEnc := henc }
  have hbound : SlotBound P t 0 := by
    rw [BoundaryBound, if_pos hcs] at hb
    rw [SlotBound, ht.encodeFrame.srcLen, hcur, if_pos hcs, ht.outLen]
    omega
  exact ⟨t, hstep, {
    sim := {
      frame := sim.frame.trans ht.encodeFrame
      room := sim.room.after_blockStart ht
      vars := hvars
      bytes := sim.bytes_append ht.bytes }
    bound := hbound
    flagPtr := by rw [ht.frame]; exact sim.vars.outLen
    flagIn := by simp [EncodeVars.startBlock]
    flagAcc := by rw [ht.frame]; rfl
    place := .inl (by rw [ht.frame]; exact ⟨rfl, rfl⟩) }⟩

/-- R174 to R178. -/
theorem InBlock.after_chunk (h : InBlock t0 P fp i e s) (hi : i < 8) (hc : e.cur < t0.srcLen.toNat) {t : State}
    {c : Nat} {bs : List Byte} {acc : Byte} (ht : ChunkEmitted c bs acc s t) (hpos : 1 ≤ c) (hlen : bs.length ≤ c)
    (hn : c ≤ t0.srcLen.toNat - e.cur) : InBlock t0 P fp (i + 1) (e.chunk c bs acc) t := by
  obtain ⟨-, rfl⟩ := h.chunkPlace hi
  obtain ⟨sim, hb, hptr, hin, -, -⟩ := h
  have hns : c ≤ s.srcLen.toNat - s.cursor.toNat := by rwa [sim.frame.srcLen, sim.vars.cursor]
  exact {
    sim := {
      frame := sim.frame.trans ht.encodeFrame
      room := sim.room.after_chunk ht hns
      vars := sim.vars.chunk ht
      bytes := by rw [EncodeVars.chunk_out]; exact sim.bytes_append ht.bytes }
    bound := SlotBound.after_chunk hb ht (sim.cursor_lt_iff.2 hc) hpos hlen hns
    flagPtr := by rw [ht.frame]; exact hptr
    flagIn := by rw [EncodeVars.chunk_out, List.length_append]; exact Nat.lt_add_right _ hin
    flagAcc := by rw [ht.frame, EncodeVars.chunk_flags]
    place := ht.index.place }

/-- R173 and R178. -/
theorem InBlock.after_exhausted (h : InBlock t0 P fp i e s) (hi : i < 8) (hc : t0.srcLen.toNat ≤ e.cur) {t : State}
    (ht : SlotExhausted P s t) : InBlock t0 P fp (i + 1) (e.fill P) t := by
  obtain ⟨-, rfl⟩ := h.chunkPlace hi
  obtain ⟨sim, hb, hptr, hin, hacc, -⟩ := h
  have hcs : s.srcLen.toNat ≤ s.cursor.toNat := not_lt.1 (mt sim.cursor_lt_iff.1 (not_lt.2 hc))
  have hvars : HoldsVars (e.fill P) t := by
    have hout : t.outLen.toNat = (e.fill P).out.length := by
      rw [ht.outLen, sim.vars.outLen, EncodeVars.fill_out, List.length_append]
    rw [ht.frame]
    exact { sim.vars with outLen := hout }
  exact {
    sim := {
      frame := sim.frame.trans ht.encodeFrame
      room := sim.room.after_exhausted ht
      vars := hvars
      bytes := sim.bytes_append ht.bytes }
    bound := SlotBound.after_exhausted hb ht hcs
    flagPtr := by rw [ht.frame]; exact hptr
    flagIn := by rw [EncodeVars.fill_out, List.length_append]; exact Nat.lt_add_right _ hin
    flagAcc := by rw [ht.frame]; exact hacc
    place := ht.index.place }

/-- One slot of a block is one chunk step (R173 to R178). -/
theorem InBlock.slot (h : InBlock t0 P fp i e s) (hi : i < 8) :
    ∃ t, engineMove s = .ok t ∧ InBlock t0 P fp (i + 1) (encodeSlot t0.imemByte P t0.srcLen.toNat i e) t := by
  obtain ⟨hph, hidx⟩ := h.chunkPlace hi
  have hb : InBlockBound P s := inBlockBound_iff.2 (hidx ▸ h.bound)
  have sim := h.sim
  obtain ⟨hc, hl, hslot⟩ | ⟨hc, hl, hslot⟩ | ⟨hc, hslot⟩ :=
    encodeSlot_cases t0.imemByte P t0.srcLen.toNat i e <;> rw [hslot]
  · obtain ⟨t, hstep, ht⟩ := sim.room.emitsRef hph hb (sim.cursor_lt_iff.2 hc) (sim.search_eq ▸ hl)
    rw [sim.search_eq, sim.vars.cursor, h.flagAcc, accWithRef, hidx] at ht
    exact ⟨t, hstep, h.after_chunk hi hc ht (by omega) hl.le recLen_le_rest⟩
  · obtain ⟨t, hstep, ht⟩ := sim.room.emitsLit hph hb (sim.cursor_lt_iff.2 hc) (sim.search_eq ▸ hl)
    rw [sim.vars.cursor, h.flagAcc, sim.frame.imemByte] at ht
    exact ⟨t, hstep, h.after_chunk hi hc ht (le_refl 1) (le_refl 1) (by omega)⟩
  · obtain ⟨t, hstep, ht⟩ := sim.room.exhausted hph hb (not_lt.1 (mt sim.cursor_lt_iff.1 (not_lt.2 hc)))
    exact ⟨t, hstep, h.after_exhausted hi hc ht⟩

/-- R179. -/
theorem InBlock.flush (h : InBlock t0 P fp 8 e s) :
    ∃ t, engineMove s = .ok t ∧ AtBlock t0 P (e.flush fp) t := by
  obtain ⟨sim, hb, rfl, hin, hacc, hplace⟩ := h
  have hph : s.phase = .encFlush := by
    obtain ⟨-, h8⟩ | ⟨hph, -⟩ := hplace
    · omega
    · exact hph
  obtain ⟨t, hstep, ht⟩ := sim.room.flush hph hb.boundary (by rw [sim.vars.outLen]; exact hin)
  have hvars : HoldsVars (e.flush s.flagPtr.toNat) t := by
    rw [ht.frame]
    exact { sim.vars with outLen := sim.vars.outLen.trans List.length_set.symm }
  exact ⟨t, hstep, {
    sim := {
      frame := sim.frame.trans ht.encodeFrame
      room := sim.room.after_flush ht
      vars := hvars
      bytes := fun a => by rw [ht.bytes, EncodeVars.flush, overlay_set hin, sim.bytes, hacc] }
    bound := by rw [ht.frame]; exact hb.boundary
    phase := by rw [ht.frame] }⟩

end

end Sys2Proof.Machine

namespace Sys2Proof.Machine

/-! ## Runs of the engine -/

theorem engineRun_succ {s t : State} (h : engineMove s = .ok t) (k : Nat) : engineRun (k + 1) s = engineRun k t := by
  simp [engineRun, h]

theorem engineRun_one {s t : State} (h : engineMove s = .ok t) : engineRun 1 s = .next t := engineRun_succ h 0

/-- A run's first part is a run. -/
theorem engineRun_split {j k : Nat} {s u : State} (h : engineRun (j + k) s = .next u) :
    ∃ v, engineRun j s = .next v ∧ engineRun k v = .next u := by
  induction j generalizing s with
  | zero => exact ⟨s, rfl, by simpa using h⟩
  | succ j ih =>
    rw [show j + 1 + k = j + k + 1 by omega] at h
    cases hm : engineMove s with
    | error e => simp [engineRun, hm] at h
    | ok t =>
      rw [engineRun_succ hm] at h ⊢
      exact ih h

/-- No engine step sets BUSY, so a run that ends BUSY was BUSY all along. -/
theorem busy_of_engineRun_busy {k : Nat} {s u : State} (h : engineRun k s = .next u) (hu : u.status.busy = true) :
    s.status.busy = true := by
  induction k generalizing s with
  | zero =>
    obtain rfl : s = u := by simpa [engineRun] using h
    exact hu
  | succ k ih =>
    cases hm : engineMove s with
    | error e => simp [engineRun, hm] at h
    | ok t =>
      rw [engineRun_succ hm] at h
      obtain ⟨-, hs | hs⟩ := engineMove_ctrl_status hm
      · exact hs ▸ ih h
      · have ht := ih h
        simp [hs, Status.completed] at ht

theorem busy_during_engineRun {K k : Nat} {s u : State} (h : engineRun K s = .next u) (hu : u.status.busy = true)
    (hk : k ≤ K) : ∃ v, engineRun k s = .next v ∧ v.status.busy = true := by
  obtain ⟨v, hv, hrest⟩ := engineRun_split (j := k) (k := K - k) (by rwa [Nat.add_sub_cancel' hk])
  exact ⟨v, hv, busy_of_engineRun_busy hrest hu⟩

/-! ## The run of an ENCODE -/

section
variable {t0 : State} {P : Preset}

theorem InBlock.slots {fp : Nat} : ∀ (left i : Nat) {e : EncodeVars} {s : State}, i + left = 8 →
    InBlock t0 P fp i e s → ∃ t, engineRun left s = .next t ∧
      InBlock t0 P fp 8 (encodeSlots t0.imemByte P t0.srcLen.toNat left i e) t
  | 0, i, e, s, hi, h => ⟨s, rfl, by obtain rfl : i = 8 := hi; exact h⟩
  | k + 1, i, e, s, hi, h => by
    obtain ⟨t, hstep, ht⟩ := h.slot (by omega)
    obtain ⟨u, hrun, hu⟩ := InBlock.slots k (i + 1) (by omega) ht
    exact ⟨u, (engineRun_succ hstep k).trans hrun, hu⟩

/-- One block is ten steps: its start, eight slots and the flush. -/
theorem AtBlock.block {e : EncodeVars} {s : State} (h : AtBlock t0 P e s) (hc : e.cur < t0.srcLen.toNat) :
    ∃ t, engineRun 10 s = .next t ∧ AtBlock t0 P (encodeBlock t0.imemByte P t0.srcLen.toNat e) t := by
  obtain ⟨s1, hstart, h1⟩ := h.start hc
  obtain ⟨s2, hslots, h2⟩ := h1.slots 8 0 rfl
  obtain ⟨t, hflush, ht⟩ := h2.flush
  refine ⟨t, ?_, ht⟩
  calc engineRun 10 s = engineRun (8 + 1) s1 := engineRun_succ hstart 9
    _ = engineRun 1 s2 := engineRun_add 8 1 s1 s2 hslots
    _ = .next t := engineRun_one hflush

theorem AtBlock.blocks : ∀ (fuel : Nat) {e : EncodeVars} {s : State}, AtBlock t0 P e s →
    ∃ m t, engineRun (10 * m) s = .next t ∧
      (encodeBlocks t0.imemByte P t0.srcLen.toNat fuel e).blocks = e.blocks + m ∧
      AtBlock t0 P (encodeBlocks t0.imemByte P t0.srcLen.toNat fuel e) t
  | 0, e, s, h => ⟨0, s, rfl, rfl, h⟩
  | k + 1, e, s, h => by
    unfold encodeBlocks
    split_ifs with hc
    · obtain ⟨t, hblock, ht⟩ := h.block hc
      obtain ⟨m, u, hrun, hblocks, hu⟩ := AtBlock.blocks k ht
      refine ⟨m + 1, u, ?_, by rw [hblocks, encodeBlock_blocks]; omega, hu⟩
      rw [show 10 * (m + 1) = 10 + 10 * m by omega, engineRun_add 10 (10 * m) s t hblock, hrun]
    · exact ⟨0, s, rfl, rfl, h⟩

/-- The stream in OMEM is EncodeAll's. -/
theorem Simulates.encodedStream_eq {e : EncodeVars} {s : State} (h : Simulates t0 P e s) :
    s.encodedStream = e.out := by
  apply List.ext_getElem
  · simp [State.encodedStream, h.vars.outLen]
  · intro a _ ha
    simp [State.encodedStream, h.bytes, overlay, ha]

end

/-- An accepted START leaves the state in which EncodeAll's variables are at their start (R171). -/
theorem acceptEncode_atBlock {mode : BitVec 2} {ie : Bool} {P : Preset} {s : State} (h : EncodeReady mode P s) :
    let t0 := acceptEncode (s.setCtrl { op := opEncode, mode := mode, ie := ie })
    AtBlock t0 P EncodeVars.init t0 := by
  intro t0
  have hzero : (0#24).toNat ≤ s.srcLen.toNat := Nat.zero_le _
  exact {
    sim := {
      frame := .refl t0
      room := ⟨rfl, h.preset, h.srcFits, h.outFits, hzero, le_refl _, le_refl _, le_refl _, le_refl _⟩
      vars := ⟨rfl, rfl, rfl, rfl, rfl, rfl⟩
      bytes := fun a => by simp [EncodeVars.init] }
    bound := by
      unfold BoundaryBound
      split_ifs <;> exact Nat.zero_le _
    phase := rfl }

/-- Settles O37: the run's relation to EncodeAll's variables holds after START, each block keeps it in ten
steps, and the end step follows when the input is used up. -/
theorem encodeRunComputesEncodeAll : Obligations.EncodeRunComputesEncodeAll := by
  intro mode ie P s hready
  dsimp only
  let t0 := acceptEncode (s.setCtrl { op := opEncode, mode := mode, ie := ie })
  have hexec : exec (.encode mode ie) s = .next t0 := by
    rw [exec, execEncode, startCommand_encode_of_ready hready]
  obtain ⟨m, v, hrun, hblocks, sim, -, hph⟩ :=
    (acceptEncode_atBlock (ie := ie) hready).blocks s.srcLen.toNat
  obtain rfl : (encodeAll s.imemByte P s.srcLen.toNat).blocks = m := hblocks.trans (Nat.zero_add m)
  have hv : v.status = Status.accepted := sim.frame.status
  have hend : v.srcLen.toNat ≤ v.cursor.toNat := by
    rw [sim.vars.cursor, sim.frame.srcLen]
    exact (encodeAll_cur s.imemByte P s.srcLen.toNat).ge
  refine ⟨t0, complete v, hexec, ?_, ?_, fun a ha => ?_, sim.frame.outside, sim.frame.matchPos,
    sim.frame.matchLen, fun k hk => busy_during_engineRun hrun (by rw [hv]; rfl) hk⟩
  · rw [engineRun_add _ 1 t0 v hrun]
    exact engineRun_one (engineMove_end hph hend)
  · obtain ⟨hcur, hout, hdec, henc, hbest, hpeak⟩ := sim.vars
    exact ⟨by rw [complete_status, hv]; rfl, rfl, hcur, hout, hdec, henc, hbest, hpeak, sim.encodedStream_eq⟩
  · exact (sim.bytes a).trans (overlay_of_le ha t0.omemByte)

/-! ## What the run depends on (R184) -/

section
variable {rd rd' : Nat → Byte} {n : Nat} (h : ∀ a, a < n → rd' a = rd a)
include h

/-- R150 below N. -/
theorem findLongestMatch_congr (P : Preset) {c : Nat} (hc : c < n) :
    findLongestMatch rd' P n c = findLongestMatch rd P n c := by
  obtain ⟨hcap, hsame⟩ := searchReadsOnlyItsWindow rd' rd P n c hc
  exact hsame fun a _ ha => h a (ha.trans_le hcap)

theorem encodeSlot_congr (P : Preset) (i : Nat) (e : EncodeVars) :
    encodeSlot rd' P n i e = encodeSlot rd P n i e := by
  unfold encodeSlot
  split_ifs with hc
  · rw [findLongestMatch_congr h P hc, h e.cur hc]
  all_goals rfl

theorem encodeSlots_congr (P : Preset) : ∀ (left i : Nat) (e : EncodeVars),
    encodeSlots rd' P n left i e = encodeSlots rd P n left i e
  | 0, _, _ => rfl
  | k + 1, i, e => by rw [encodeSlots, encodeSlots, encodeSlot_congr h, encodeSlots_congr P k]

theorem encodeBlocks_congr (P : Preset) : ∀ (fuel : Nat) (e : EncodeVars),
    encodeBlocks rd' P n fuel e = encodeBlocks rd P n fuel e
  | 0, _ => rfl
  | k + 1, e => by
    rw [encodeBlocks, encodeBlocks, encodeBlock_eq, encodeBlock_eq, encodeSlots_congr h, encodeBlocks_congr P k]

theorem encodeAll_congr (P : Preset) : encodeAll rd' P n = encodeAll rd P n := encodeBlocks_congr h P n _

end

/-- Settles O39: both runs end with the results of EncodeAll, which reads the input below N alone. -/
theorem encodeResultsDependOnTheInputAlone : Obligations.EncodeResultsDependOnTheInputAlone := by
  intro mode ie ie' P s s' hready hready' hsrc hin
  obtain ⟨t, u, hexec, hrun, hres, -⟩ := encodeRunComputesEncodeAll mode ie P s hready
  obtain ⟨t', u', hexec', hrun', hres', -⟩ := encodeRunComputesEncodeAll mode ie' P s' hready'
  rw [hsrc, encodeAll_congr hin P] at hrun' hres'
  exact ⟨t, t', u, u', _, hexec, hexec', hrun, hrun', hres.phase, hres'.phase,
    hres'.stream.trans hres.stream.symm,
    BitVec.eq_of_toNat_eq (hres'.outLen.trans hres.outLen.symm),
    BitVec.eq_of_toNat_eq (hres'.spDec.trans hres.spDec.symm),
    BitVec.eq_of_toNat_eq (hres'.spEnc.trans hres.spEnc.symm),
    BitVec.eq_of_toNat_eq (hres'.bestSavings.trans hres.bestSavings.symm),
    BitVec.eq_of_toNat_eq (hres'.peakCursor.trans hres.peakCursor.symm),
    BitVec.eq_of_toNat_eq (hres'.cursor.trans hres.cursor.symm)⟩

end Sys2Proof.Machine

/-! # 41_greedy_encoder.md: the stream decodes to the input (R186) -/

namespace Sys2Proof.Machine

/-! ## The input's prefixes -/

/-- The first `c` bytes of the input. -/
def inputPrefix (rd : Nat → Byte) (c : Nat) : List Byte := (List.range c).map rd

@[simp] theorem inputPrefix_length (rd : Nat → Byte) (c : Nat) : (inputPrefix rd c).length = c := by
  simp [inputPrefix]

theorem inputPrefix_succ (rd : Nat → Byte) (c : Nat) : inputPrefix rd (c + 1) = inputPrefix rd c ++ [rd c] := by
  simp [inputPrefix, List.range_succ]

/-- The byte-serial copy gives the input's next bytes where they repeat those `dist` before (R212). -/
theorem copyBytes_inputPrefix {rd : Nat → Byte} {expect dist : Nat} (hd : 1 ≤ dist) : ∀ (len c : Nat),
    dist ≤ c → c + len ≤ expect → (∀ a, c ≤ a → a < c + len → rd (a - dist) = rd a) →
    copyBytes expect dist len (inputPrefix rd c) = inputPrefix rd (c + len)
  | 0, _, _, _, _ => rfl
  | k + 1, c, hl, he, h => by
    have hbyte : (inputPrefix rd c)[(inputPrefix rd c).length - dist]'(by simp; omega) = rd c := by
      simpa [inputPrefix] using h c (le_refl c) (by omega)
    rw [copyBytes_succ (by simp; omega) hd (by simpa using hl), hbyte, ← inputPrefix_succ,
      copyBytes_inputPrefix hd k (c + 1) (by omega) (by omega) fun a h1 h2 => h a (by omega) (by omega)]
    congr 1
    omega

/-! ## The decoder on a stream of the input -/

/-- The phase before slot `i` of a block with flag byte `f`, or before the next block if `i` is 8 (R210). -/
def slotPhase (f : Byte) (i : Nat) : DecoderPhase := if h : i < 8 then .slot f ⟨i, h⟩ else .blockStart

/-- A decoder that has read `j` bytes of `S` and written the input's first `c`: stopped if these are all
`n`, else at phase `ph`. -/
def decoderAt (rd : Nat → Byte) (kind : StreamKind) (S : List Byte) (n c j : Nat) (ph : DecoderPhase) : Decoder where
  kind := kind
  stream := S
  idx := j
  out := inputPrefix rd c
  expect := n
  phase := if n ≤ c then .done else ph

section
variable {rd : Nat → Byte} {kind : StreamKind} {S : List Byte} {n c j : Nat} {clamp : ClampMode} {ph : DecoderPhase}

/-- With output to come it stands at `ph`. -/
theorem decoderAt_of_lt (h : c < n) : decoderAt rd kind S n c j ph =
    { kind := kind, stream := S, idx := j, out := inputPrefix rd c, expect := n, phase := ph } := by
  simp [decoderAt, h.not_ge]

/-- With the output complete the phase is no longer the stream's. -/
theorem decoderAt_of_le (h : n ≤ c) (ph ph' : DecoderPhase) :
    decoderAt rd kind S n c j ph = decoderAt rd kind S n c j ph' := by
  simp [decoderAt, h]

theorem decoderAt_start (h : 0 < n) : decoderAt rd kind S n 0 0 .blockStart = Decoder.start kind S n :=
  decoderAt_of_lt h

/-- After a chunk that made the output the input's first `c` bytes (R215). -/
theorem afterChunk_inputPrefix {f : Byte} {i : Nat} (hi : i < 8) :
    Decoder.afterChunk { kind := kind, stream := S, idx := j, out := inputPrefix rd c, expect := n,
                         phase := slotPhase f i } =
      decoderAt rd kind S n c j (slotPhase f (i + 1)) := by
  unfold Decoder.afterChunk Decoder.full decoderAt
  by_cases hc : n ≤ c
  · simp [hc, Decoder.finish]
  · by_cases h7 : i < 7
    · simp [hc, Decoder.nextSlot, slotPhase, hi, h7]
    · simp [hc, Decoder.nextSlot, slotPhase, hi, h7, not_lt.1 h7]

theorem Decoder.unlessFull_of_lt {d : Decoder} (h : d.out.length < d.expect) (g : Decoder → Decoder) :
    d.unlessFull g = g d := by
  obtain ⟨hle, -⟩ | ⟨-, heq⟩ := d.unlessFull_cases g
  · omega
  · exact heq

theorem decoderAt_not_full (h : c < n) :
    (decoderAt rd kind S n c j ph).out.length < (decoderAt rd kind S n c j ph).expect := by
  simpa [decoderAt] using h

/-- A step that runs the item at the decoder's place. -/
theorem decoderAt_step {place : DecodePlace} {i : Instr} {rest : List Byte} (hc : c < n)
    (hp : (decoderAt rd kind S n c j ph).place = some place)
    (hd : decode place (.stream (S.drop j)) = .ok (i, rest)) :
    (decoderAt rd kind S n c j ph).step clamp = (decoderAt rd kind S n c j ph).item clamp i := by
  have hfull : (decoderAt rd kind S n c j ph).full = false := by simp [Decoder.full, decoderAt, hc]
  have hmove : (decoderAt rd kind S n c j ph).move = .run i := by
    simp only [Decoder.move, hp, hfull]
    simp [decoderAt, hd]
  simp [Decoder.step, hmove]

theorem decoderAt_step_flag {f : Byte} {rest : List Byte} (hc : c < n) (hS : S.drop j = f :: rest) :
    (decoderAt rd kind S n c j .blockStart).step clamp = decoderAt rd kind S n c (j + 1) (slotPhase f 0) := by
  rw [decoderAt_step (place := .blockStart) (i := .flag f) (rest := rest) hc (by rw [decoderAt_of_lt hc]; rfl)
    (by rw [hS]; rfl), Decoder.item, Decoder.flag, Decoder.unlessFull_of_lt (decoderAt_not_full hc),
    decoderAt_of_lt hc, decoderAt_of_lt hc]
  rfl

theorem decoderAt_place_slot {f : Byte} {i : Nat} (hc : c < n) (hi : i < 8) :
    (decoderAt rd kind S n c j (slotPhase f i)).place = some (.slot (f.getLsbD (7 - i)) kind) := by
  rw [decoderAt_of_lt hc, slotPhase, dif_pos hi]
  rfl

theorem decoderAt_step_lit {f : Byte} {i : Nat} {rest : List Byte} (hc : c < n) (hi : i < 8)
    (hf : f.getLsbD (7 - i) = false) (hS : S.drop j = rd c :: rest) :
    (decoderAt rd kind S n c j (slotPhase f i)).step clamp =
      decoderAt rd kind S n (c + 1) (j + 1) (slotPhase f (i + 1)) := by
  rw [decoderAt_step hc (decoderAt_place_slot hc hi) (by rw [hf, hS]; rfl), ← afterChunk_inputPrefix hi,
    inputPrefix_succ, Decoder.item, Decoder.lit, Decoder.unlessFull_of_lt (decoderAt_not_full hc),
    decoderAt_of_lt hc]
  rfl

theorem refBDistance_of_le {written dist : Nat} (h : dist ≤ written) : refBDistance written dist = .ok dist :=
  if_neg (not_lt.2 h)

/-- Within the output there is no clamp (R214). -/
theorem refIDistance_of_le {written dist : Nat} (h : dist ≤ written) : refIDistance clamp written dist = .ok dist :=
  if_neg (not_lt.2 h)

/-- A back-reference inside the output is its copy, for both kinds of stream (R212, R214). -/
theorem Decoder.item_ref {d : Decoder} {len disp : Nat} (h3 : 3 ≤ len) (h18 : len ≤ 18) (hd : disp ≤ 0xFFF)
    (hfull : d.out.length < d.expect) (hdist : disp + kind.preset.posSubtract ≤ d.out.length) :
    d.item clamp (refOfField kind (refField len disp)) =
      { d.skip 2 with out := copyBytes d.expect (disp + kind.preset.posSubtract) len d.out }.afterChunk := by
  cases kind with
  | block =>
    have hdist : disp + Preset.block.posSubtract ≤ d.out.length := hdist
    rw [refOfField, refLength_refField disp h3 h18, refDisp_refField len hd, Decoder.item, Decoder.refB,
      unlessFull_of_lt hfull, refBDistance_of_le hdist]
    rfl
  | image =>
    have hdist : disp + Preset.image.posSubtract ≤ d.out.length := hdist
    rw [refOfField, refLength_refField disp h3 h18, refDisp_refField len hd, Decoder.item, Decoder.refI,
      unlessFull_of_lt hfull, refIDistance_of_le hdist]
    rfl

theorem decoderAt_step_ref {f : Byte} {i len disp : Nat} {rest : List Byte} (hi : i < 8)
    (hf : f.getLsbD (7 - i) = true) (hS : S.drop j = refBytes len disp ++ rest) (h3 : 3 ≤ len) (h18 : len ≤ 18)
    (hd : disp ≤ 0xFFF) (hpos : 1 ≤ disp + kind.preset.posSubtract) (hdist : disp + kind.preset.posSubtract ≤ c)
    (hlen : c + len ≤ n)
    (hrep : ∀ a, c ≤ a → a < c + len → rd (a - (disp + kind.preset.posSubtract)) = rd a) :
    (decoderAt rd kind S n c j (slotPhase f i)).step clamp =
      decoderAt rd kind S n (c + len) (j + 2) (slotPhase f (i + 1)) := by
  have hc : c < n := by omega
  have hdec : decode (.slot (f.getLsbD (7 - i)) kind) (.stream (S.drop j)) =
      .ok (refOfField kind (refField len disp), rest) := by
    rw [hf, hS, ← fieldOfBytes_fieldBytes (refField len disp)]
    rfl
  rw [decoderAt_step hc (decoderAt_place_slot hc hi) hdec,
    Decoder.item_ref h3 h18 hd (decoderAt_not_full hc) (by simpa [decoderAt] using hdist),
    ← afterChunk_inputPrefix hi, ← copyBytes_inputPrefix hpos len c hdist hlen hrep, decoderAt_of_lt hc]
  rfl

end

/-! ## Runs of the decoder -/

theorem Decoder.run_succ' (clamp : ClampMode) : ∀ (k : Nat) (d : Decoder),
    Decoder.run clamp (k + 1) d = (Decoder.run clamp k d).step clamp
  | 0, _ => rfl
  | k + 1, d => Decoder.run_succ' clamp k (d.step clamp)

theorem Decoder.run_add (clamp : ClampMode) (j : Nat) : ∀ (k : Nat) (d : Decoder),
    Decoder.run clamp (k + j) d = Decoder.run clamp j (Decoder.run clamp k d)
  | 0, d => by rw [Nat.zero_add]; rfl
  | k + 1, d => by
    rw [Nat.succ_add]
    exact Decoder.run_add clamp j k (d.step clamp)

/-- A stopped decoder stays. -/
theorem Decoder.run_done {d : Decoder} (clamp : ClampMode) (h : d.phase = .done) : ∀ k, Decoder.run clamp k d = d
  | 0 => rfl
  | k + 1 => by
    have hstep : d.step clamp = d := by simp [Decoder.step, Decoder.move, Decoder.place, h]
    rw [Decoder.run, hstep, Decoder.run_done clamp h k]

/-- Some run from `d0`, of at most one step for each byte read, ends in `d`. -/
def Decoder.Reaches (clamp : ClampMode) (d0 d : Decoder) : Prop := ∃ k, k ≤ d.idx ∧ Decoder.run clamp k d0 = d

theorem Decoder.Reaches.step {clamp : ClampMode} {d0 d e : Decoder} (h : Decoder.Reaches clamp d0 d)
    (hs : d.step clamp = e) (hidx : d.idx < e.idx) : Decoder.Reaches clamp d0 e := by
  obtain ⟨k, hk, rfl⟩ := h
  exact ⟨k + 1, by omega, (Decoder.run_succ' clamp k d0).trans hs⟩

/-- A decoder that stops inside its stream has the decoder's answer as its output. -/
theorem decodeStream_of_reaches {clamp : ClampMode} {kind : StreamKind} {S : List Byte} {n : Nat} {d : Decoder}
    (h : Decoder.Reaches clamp (Decoder.start kind S n) d) (hidx : d.idx ≤ S.length) (hd : d.phase = .done) :
    decodeStream kind clamp S n = .ok d.out := by
  obtain ⟨k, hk, hrun⟩ := h
  have hfinal : Decoder.run clamp (S.length + 1) (Decoder.start kind S n) = d := by
    rw [show S.length + 1 = k + (S.length + 1 - k) by omega, Decoder.run_add, hrun, Decoder.run_done clamp hd]
  simp [decodeStream, hfinal, Decoder.result, hd]

/-! ## What EncodeAll appends -/

section
variable (rd : Nat → Byte) (P : Preset) (n : Nat)

theorem encodeSlot_prefix (i : Nat) (e : EncodeVars) : e.out <+: (encodeSlot rd P n i e).out := by
  obtain ⟨-, -, h⟩ | ⟨-, -, h⟩ | ⟨-, h⟩ := encodeSlot_cases rd P n i e <;> simp [h]

theorem encodeSlots_prefix : ∀ (left i : Nat) (e : EncodeVars), e.out <+: (encodeSlots rd P n left i e).out
  | 0, _, e => List.prefix_refl e.out
  | k + 1, i, e => (encodeSlot_prefix rd P n i e).trans (encodeSlots_prefix k (i + 1) _)

/-- A block puts its flag byte and its chunks after the stream so far. -/
theorem encodeBlock_prefix (e : EncodeVars) : e.out <+: (encodeBlock rd P n e).out := by
  obtain ⟨tail, h⟩ := encodeSlots_prefix rd P n 8 0 e.startBlock
  rw [encodeBlock_eq, EncodeVars.flush, ← h, EncodeVars.startBlock, List.append_assoc,
    List.set_append_right _ _ (le_refl _)]
  exact List.prefix_append _ _

theorem encodeBlocks_prefix : ∀ (fuel : Nat) (e : EncodeVars), e.out <+: (encodeBlocks rd P n fuel e).out
  | 0, e => List.prefix_refl e.out
  | k + 1, e => by
    unfold encodeBlocks
    split_ifs
    · exact (encodeBlock_prefix rd P n e).trans (encodeBlocks_prefix k _)
    · exact List.prefix_refl e.out

variable {rd P n}

/-- A slot sets no other slot's flag bit. -/
theorem encodeSlot_flag_other {i j : Nat} (hi : i < 8) (hj : j < 8) (hne : j ≠ i) (e : EncodeVars) :
    (encodeSlot rd P n i e).flags.getLsbD (7 - j) = e.flags.getLsbD (7 - j) := by
  obtain ⟨-, -, h⟩ | ⟨-, -, h⟩ | ⟨-, h⟩ := encodeSlot_cases rd P n i e <;> rw [h]
  · simp [flagBit_getLsbD hi hj, hne]
  · simp
  · simp

theorem encodeSlots_flag_earlier {j : Nat} : ∀ (left i : Nat) (e : EncodeVars), i + left ≤ 8 → j < i →
    (encodeSlots rd P n left i e).flags.getLsbD (7 - j) = e.flags.getLsbD (7 - j)
  | 0, _, _, _, _ => rfl
  | k + 1, i, e, h8, hj => by
    rw [encodeSlots, encodeSlots_flag_earlier k (i + 1) _ (by omega) (by omega),
      encodeSlot_flag_other (by omega) (by omega) (by omega)]

end

/-- The input at the cursor repeats the bytes at the match's distance before it (40_match_search.md R142). -/
theorem findLongestMatch_repeats {rd : Nat → Byte} {P : Preset} {n c : Nat}
    (h : 1 ≤ (findLongestMatch rd P n c).recLen) (a : Nat) (hc : c ≤ a)
    (ha : a < c + (findLongestMatch rd P n c).recLen) :
    rd (a - (c - (findLongestMatch rd P n c).recPos)) = rd a := by
  obtain ⟨-, -, ⟨h0, -⟩ | ⟨-, hocc⟩⟩ := findLongestMatch_record rd P n c
  · omega
  · obtain ⟨-, hend, hsame⟩ := occurs_iff.1 hocc
    have hk := hsame (a - c) (by omega)
    rw [Nat.add_sub_cancel' hc] at hk
    rw [← hk]
    congr 1
    omega

/-! ## The decoder follows EncodeAll -/

section
variable {clamp : ClampMode} {kind : StreamKind} {S : List Byte} {rd : Nat → Byte} {n : Nat}

/-- The decoder of `S` comes to the input's first `e.cur` bytes and phase `ph`; as long as input is left it has
read as many bytes as `e.out` has. -/
def DecodesTo (clamp : ClampMode) (kind : StreamKind) (S : List Byte) (rd : Nat → Byte) (n : Nat) (e : EncodeVars)
    (ph : DecoderPhase) : Prop :=
  ∃ j, j ≤ e.out.length ∧ (e.cur < n → j = e.out.length) ∧
    Decoder.Reaches clamp (Decoder.start kind S n) (decoderAt rd kind S n e.cur j ph)

/-- One step of the decoder, with input left. -/
theorem DecodesTo.step {e e' : EncodeVars} {ph ph' : DecoderPhase} (h : DecodesTo clamp kind S rd n e ph)
    (hc : e.cur < n) (hs : (decoderAt rd kind S n e.cur e.out.length ph).step clamp =
      decoderAt rd kind S n e'.cur e'.out.length ph') (hlen : e.out.length < e'.out.length) :
    DecodesTo clamp kind S rd n e' ph' := by
  obtain ⟨j, -, hj, hreach⟩ := h
  obtain rfl := hj hc
  exact ⟨_, le_refl _, fun _ => rfl, hreach.step hs hlen⟩

/-- The decoder has stopped, whatever the encoder still appends. -/
theorem DecodesTo.exhausted {e e' : EncodeVars} {ph ph' : DecoderPhase} (h : DecodesTo clamp kind S rd n e ph)
    (hc : n ≤ e.cur) (hcur : e'.cur = e.cur) (hlen : e.out.length ≤ e'.out.length) :
    DecodesTo clamp kind S rd n e' ph' := by
  obtain ⟨j, hj, -, hreach⟩ := h
  refine ⟨j, hj.trans hlen, fun hlt => by omega, ?_⟩
  rwa [hcur, decoderAt_of_le hc ph' ph]

/-- The chunk of slot `i` is decoded to the input bytes it encodes. -/
theorem DecodesTo.slot {i : Nat} {e : EncodeVars} {f : Byte} (h : DecodesTo clamp kind S rd n e (slotPhase f i))
    (hi : i < 8) (hclear : e.flags.getLsbD (7 - i) = false)
    (hf : f.getLsbD (7 - i) = (encodeSlot rd kind.preset n i e).flags.getLsbD (7 - i))
    (hS : (encodeSlot rd kind.preset n i e).out.drop e.out.length <+: S.drop e.out.length) :
    DecodesTo clamp kind S rd n (encodeSlot rd kind.preset n i e) (slotPhase f (i + 1)) := by
  obtain ⟨hc, hl, hslot⟩ | ⟨hc, hl, hslot⟩ | ⟨hc, hslot⟩ := encodeSlot_cases rd kind.preset n i e <;>
    rw [hslot] at hf hS ⊢
  · rw [EncodeVars.chunk_out, List.drop_left] at hS
    obtain ⟨rest, hbytes⟩ := hS
    have hleft : (findLongestMatch rd kind.preset n e.cur).recLen ≤ n - e.cur := recLen_le_rest
    obtain ⟨hend, h18, hsub, hdisp⟩ := findLongestMatch_ref_ranges kind hl
    have hdist := Nat.sub_add_cancel hsub
    have hbit : f.getLsbD (7 - i) = true := by
      rw [hf, EncodeVars.chunk_flags, BitVec.getLsbD_or, flagBit_getLsbD hi hi]
      simp
    refine h.step hc ?_ (by simp [refBytes, fieldBytes])
    rw [EncodeVars.chunk_cur, EncodeVars.chunk_out, List.length_append]
    exact decoderAt_step_ref hi hbit hbytes.symm hl h18 hdisp (by omega) (by omega) (by omega)
      (hdist.symm ▸ findLongestMatch_repeats (by omega))
  · rw [EncodeVars.chunk_out, List.drop_left] at hS
    obtain ⟨rest, hbytes⟩ := hS
    refine h.step hc ?_ (by simp)
    rw [EncodeVars.chunk_cur, EncodeVars.chunk_out, List.length_append]
    exact decoderAt_step_lit hc hi (by rw [hf, EncodeVars.chunk_flags, hclear]) hbytes.symm
  · exact h.exhausted hc (EncodeVars.fill_cur ..) (by simp)

/-- The chunks of a block are decoded under the flag byte that the block ends with. -/
theorem DecodesTo.slots : ∀ (left i : Nat) {e : EncodeVars}, i + left = 8 →
    DecodesTo clamp kind S rd n e (slotPhase (encodeSlots rd kind.preset n left i e).flags i) →
    (∀ j, i ≤ j → j < 8 → e.flags.getLsbD (7 - j) = false) →
    (encodeSlots rd kind.preset n left i e).out.drop e.out.length <+: S.drop e.out.length →
    DecodesTo clamp kind S rd n (encodeSlots rd kind.preset n left i e) .blockStart
  | 0, i, e, hi, h, _, _ => by
    obtain rfl : i = 8 := hi
    exact h
  | k + 1, i, e, hi, h, hclear, hS => by
    have hpre := encodeSlot_prefix rd kind.preset n i e
    have hpre' := encodeSlots_prefix rd kind.preset n k (i + 1) (encodeSlot rd kind.preset n i e)
    have hslot := h.slot (by omega) (hclear i (le_refl i) (by omega))
      (encodeSlots_flag_earlier k (i + 1) _ (by omega) (by omega)) ((hpre'.drop _).trans hS)
    refine DecodesTo.slots k (i + 1) (by omega) hslot (fun j hj hj8 => ?_) ?_
    · rw [encodeSlot_flag_other (by omega) hj8 (by omega)]
      exact hclear j (by omega) hj8
    · have hdrop := hS.drop ((encodeSlot rd kind.preset n i e).out.length - e.out.length)
      rwa [List.drop_drop, List.drop_drop, Nat.add_sub_cancel' hpre.length_le] at hdrop

/-- A block is decoded to the input bytes it encodes. -/
theorem DecodesTo.block {e : EncodeVars} (h : DecodesTo clamp kind S rd n e .blockStart) (hc : e.cur < n)
    (hS : (encodeBlock rd kind.preset n e).out <+: S) :
    DecodesTo clamp kind S rd n (encodeBlock rd kind.preset n e) .blockStart := by
  rw [encodeBlock_eq] at hS ⊢
  generalize he' : encodeSlots rd kind.preset n 8 0 e.startBlock = e' at hS ⊢
  have hlen : e.out.length < e'.out.length := by
    have hle := (encodeSlots_prefix rd kind.preset n 8 0 e.startBlock).length_le
    rw [he'] at hle
    exact lt_of_lt_of_le (by simp [EncodeVars.startBlock]) hle
  have hdrop := hS.drop e.out.length
  rw [EncodeVars.flush, List.drop_eq_getElem_cons (by simpa using hlen), List.getElem_set_self,
    List.drop_set_of_lt (by omega)] at hdrop
  obtain ⟨rest, hrest⟩ := hdrop
  have htail : S.drop (e.out.length + 1) = e'.out.drop (e.out.length + 1) ++ rest := by
    rw [← List.drop_drop, ← hrest]
    rfl
  have hstart : DecodesTo clamp kind S rd n e.startBlock (slotPhase e'.flags 0) :=
    h.step hc (by
      rw [decoderAt_step_flag hc hrest.symm]
      simp [EncodeVars.startBlock]) (by simp [EncodeVars.startBlock])
  have hslots : DecodesTo clamp kind S rd n e' .blockStart := by
    subst he'
    refine hstart.slots 8 0 rfl (fun j _ _ => ?_) ?_
    · simp [EncodeVars.startBlock]
    · rw [EncodeVars.startBlock, List.length_append, List.length_singleton, htail]
      exact List.prefix_append _ rest
  obtain ⟨j, hj, hidx, hreach⟩ := hslots
  exact ⟨j, by simpa [EncodeVars.flush] using hj, by simpa [EncodeVars.flush] using hidx, hreach⟩

theorem DecodesTo.blocks : ∀ (fuel : Nat) {e : EncodeVars}, DecodesTo clamp kind S rd n e .blockStart →
    (encodeBlocks rd kind.preset n fuel e).out <+: S →
    DecodesTo clamp kind S rd n (encodeBlocks rd kind.preset n fuel e) .blockStart
  | 0, _, h, _ => h
  | k + 1, e, h, hS => by
    unfold encodeBlocks at hS ⊢
    split_ifs at hS ⊢ with hc
    · exact (h.block hc ((encodeBlocks_prefix rd kind.preset n k _).trans hS)).blocks k hS
    · exact h

end

/-- R186 for EncodeAll: its stream decodes to the input, for both kinds, both clamps and every length. -/
theorem decodeStream_encodeAll (rd : Nat → Byte) (kind : StreamKind) (clamp : ClampMode) (n : Nat) :
    decodeStream kind clamp (encodeAll rd kind.preset n).out n = .ok (inputPrefix rd n) := by
  obtain rfl | hn := Nat.eq_zero_or_pos n
  · cases kind <;> cases clamp <;> rfl
  have hstart : DecodesTo clamp kind (encodeAll rd kind.preset n).out rd n EncodeVars.init .blockStart :=
    ⟨0, le_refl 0, fun _ => rfl, 0, le_refl 0, (decoderAt_start hn).symm⟩
  obtain ⟨j, hj, -, hreach⟩ := hstart.blocks n (List.prefix_refl _)
  have hcur : (encodeBlocks rd kind.preset n n EncodeVars.init).cur = n := encodeAll_cur rd kind.preset n
  rw [hcur] at hreach
  exact decodeStream_of_reaches hreach hj (if_pos (le_refl n))

/-- Settles O38: the run leaves EncodeAll's stream, and the decoder follows EncodeAll chunk by chunk. -/
theorem decodingAnEncodedStreamGivesTheInput : Obligations.DecodingAnEncodedStreamGivesTheInput := by
  intro mode ie kind clamp s hready
  obtain ⟨t, u, hexec, hrun, hres, -⟩ := encodeRunComputesEncodeAll mode ie kind.preset s hready
  refine ⟨t, u, _, hexec, hrun, hres.phase, by rw [hres.status], ?_⟩
  rw [hres.stream]
  exact decodeStream_encodeAll s.imemByte kind clamp s.srcLen.toNat

end Sys2Proof.Machine

/-! # 42_chunk_semantics.md: the decoder's step in a slot and at a block's start -/

namespace Sys2Proof.Machine

/-! ## Where the decoder reads, and what a short stream decodes to -/

section
variable {d : Decoder} {clamp : ClampMode} {place : DecodePlace}

theorem Decoder.place_slot {f : Byte} {b : Fin 8} (h : d.phase = .slot f b) :
    d.place = some (.slot (f.getLsbD (7 - b.val)) d.kind) := by
  rw [Decoder.place, h]
  rfl

theorem Decoder.place_blockStart (h : d.phase = .blockStart) : d.place = some .blockStart := by
  rw [Decoder.place, h]

theorem Decoder.full_of_lt (h : d.out.length < d.expect) : d.full = false := decide_eq_false (not_le.2 h)

/-- With output to come, the step runs the item that stands at the decoder's place. -/
theorem Decoder.step_of_decode_ok {i : Instr} {rest : List Byte} (hlt : d.out.length < d.expect)
    (hp : d.place = some place) (hd : decode place (.stream (d.stream.drop d.idx)) = .ok (i, rest)) :
    d.step clamp = d.item clamp i := by
  simp [Decoder.step, Decoder.move, hp, Decoder.full_of_lt hlt, hd]

/-- With output to come and no whole item left, the step raises TruncatedInput (R216). -/
theorem Decoder.step_of_decode_error {e : Reject} (hlt : d.out.length < d.expect) (hp : d.place = some place)
    (hd : decode place (.stream (d.stream.drop d.idx)) = .error e) :
    d.step clamp = d.fail .truncatedInput := by
  simp [Decoder.step, Decoder.move, hp, Decoder.full_of_lt hlt, hd]

end

/-- A reference slot needs two bytes (R212). -/
theorem decodeSlot_ref_of_short {kind : StreamKind} : ∀ {bytes : List Byte}, bytes.length ≤ 1 →
    decodeSlot true kind bytes = .error .truncated
  | [], _ => rfl
  | [_], _ => rfl

/-! ## The decoder's turn -/

section
variable {s : State} (hturn : s.turn = .decoder) (hlt : s.decoder.out.length < s.decoder.expect)
include hturn hlt

/-- On its turn a decoder with no whole item left stops with TruncatedInput and keeps its output. -/
theorem stepTruncates_of_decode_error {place : DecodePlace} {e : Reject} (hp : s.decoder.place = some place)
    (hd : decode place (.stream (s.decoder.stream.drop s.decoder.idx)) = .error e) : StepTruncates s := by
  refine ⟨_, step_decoder hturn, ?_⟩
  rw [State.setDecoder_decoder, Decoder.step_of_decode_error hlt hp hd]
  exact ⟨rfl, rfl⟩

theorem stepTruncates_in_literal_slot {f : Byte} {b : Fin 8} (hph : s.decoder.phase = .slot f b)
    (hbit : f.getLsbD (7 - b.val) = false) (hend : s.decoder.stream.length ≤ s.decoder.idx) :
    StepTruncates s :=
  stepTruncates_of_decode_error hturn hlt (Decoder.place_slot hph)
    (by rw [hbit, List.drop_eq_nil_of_le hend]; rfl)

theorem stepTruncates_in_reference_slot {f : Byte} {b : Fin 8} (hph : s.decoder.phase = .slot f b)
    (hbit : f.getLsbD (7 - b.val) = true) (hend : s.decoder.stream.length ≤ s.decoder.idx + 1) :
    StepTruncates s := by
  have hshort : (s.decoder.stream.drop s.decoder.idx).length ≤ 1 := by
    rw [List.length_drop]
    omega
  exact stepTruncates_of_decode_error hturn hlt (Decoder.place_slot hph)
    (by rw [hbit]; exact decodeSlot_ref_of_short hshort)

theorem stepTruncates_at_blockStart (hph : s.decoder.phase = .blockStart)
    (hend : s.decoder.stream.length ≤ s.decoder.idx) : StepTruncates s :=
  stepTruncates_of_decode_error hturn hlt (Decoder.place_blockStart hph)
    (by rw [List.drop_eq_nil_of_le hend]; rfl)

/-- R211 with a byte left: the step is LIT with that byte. -/
theorem step_in_literal_slot {f : Byte} {b : Fin 8} {x : Byte} (hph : s.decoder.phase = .slot f b)
    (hbit : f.getLsbD (7 - b.val) = false) (hx : s.decoder.stream[s.decoder.idx]? = some x) :
    step s = .next ((s.setTurns s.turns.tail).setDecoder (s.decoder.lit x)) := by
  obtain ⟨hidx, rfl⟩ := List.getElem?_eq_some_iff.1 hx
  rw [step_decoder hturn, Decoder.step_of_decode_ok hlt (Decoder.place_slot hph)
    (by rw [hbit, List.drop_eq_getElem_cons hidx]; rfl)]
  rfl

end

/-- LIT with output to come appends its byte and counts it as read (R211). -/
theorem Decoder.lit_out_idx {d : Decoder} (h : d.out.length < d.expect) (x : Byte) :
    (d.lit x).out = d.out ++ [x] ∧ (d.lit x).idx = d.idx + 1 := by
  simp [Decoder.lit, Decoder.unlessFull_of_lt h, Decoder.skip]

/-- Settles O45: a slot or block start without its bytes does not decode, and a literal slot's step is LIT. -/
theorem literalSlotTakesTheNextStreamByte : Obligations.LiteralSlotTakesTheNextStreamByte := by
  intro s hturn hlt
  refine ⟨fun f b hph hbit => ⟨stepTruncates_in_literal_slot hturn hlt hph hbit, fun x hx => ?_⟩,
    fun f b => stepTruncates_in_reference_slot hturn hlt, stepTruncates_at_blockStart hturn hlt⟩
  exact ⟨_, step_in_literal_slot hturn hlt hph hbit hx, Decoder.lit_out_idx hlt x⟩

end Sys2Proof.Machine

/-! # 60_exceptions.md: the START checks and what a START leaves -/

namespace Sys2Proof.Machine

/-! ## The first cause (R262) -/

/-- MODE 2 and 3 are the reserved ones (R32). -/
theorem presetOf_eq_none_iff : ∀ mode : BitVec 2, presetOf mode = none ↔ mode = 2 ∨ mode = 3 := by decide

/-- R261's bound by MODE: only MODE 0 fills its last block. -/
theorem outBound_of_preset {mode : BitVec 2} {P : Preset} (h : presetOf mode = some P) (n : Nat) :
    outBound P n = n + (n + 7) / 8 + (if mode = 0 then 7 else 0) := by
  obtain ⟨rfl, rfl⟩ | ⟨rfl, rfl⟩ := presetOf_eq_some h <;> rfl

/-- R262's order by the fields OP and MODE, the checks that need a preset included. -/
theorem checkStart_eq (op mode : BitVec 2) (s : State) :
    checkStart op mode s =
      if op = 0 ∨ op = 3 then some .opReserved
      else if mode = 2 ∨ mode = 3 then some .modeReserved
      else if s.params.imemSize < s.srcLen.toNat then some .srcRange
      else if op = 1 ∧ s.srcLen.toNat ≤ s.cursor.toNat then some .cursorRange
      else if op = 2 ∧ s.params.omemSize <
          s.srcLen.toNat + (s.srcLen.toNat + 7) / 8 + (if mode = 0 then 7 else 0) then some .outCapacity
      else none := by
  unfold checkStart
  cases hP : presetOf mode with
  | none => rw [if_pos ((presetOf_eq_none_iff mode).1 hP)]
  | some P =>
    have hmode : ¬(mode = 2 ∨ mode = 3) := by
      rw [← presetOf_eq_none_iff, hP]
      exact Option.some_ne_none P
    rw [if_neg hmode, ← outBound_of_preset hP]
    rfl

/-! ## What a START leaves while idle (R260, R263) -/

section
variable {op mode : BitVec 2} {ie : Bool} {s : State} (hidle : s.status.busy = false)
include hidle

/-- The checks do not read CTRL: the first cause before its fields are stored refuses the START. -/
theorem startCommand_of_cause {e : StartError} (h : checkStart op mode s = some e) :
    startCommand op mode ie s = refuseStart e (s.setCtrl { op := op, mode := mode, ie := ie }) := by
  obtain ⟨hb, -⟩ | ⟨-, e', he, heq⟩ | ⟨-, hn, -⟩ := startCommand_cases op mode ie s
  · simp [hidle] at hb
  · obtain rfl : e = e' := Option.some.inj (h.symm.trans he)
    exact heq
  · exact absurd (h.symm.trans hn) (by simp)

/-- With no cause the command runs from its first phase. -/
theorem startCommand_of_no_cause (h : checkStart op mode s = none) :
    (startCommand op mode ie s).status = Status.accepted ∧
      (startCommand op mode ie s).phase = if op = opFind then .findRun else .encBlock := by
  obtain ⟨hb, -⟩ | ⟨-, e, he, -⟩ | ⟨-, -, heq⟩ := startCommand_cases op mode ie s
  · simp [hidle] at hb
  · exact absurd (h.symm.trans he) (by simp)
  · rw [heq]
    split_ifs <;> exact ⟨rfl, rfl⟩

end

/-- Settles O20: each branch of R262's order names the result of Check, which decides what the START leaves. -/
theorem startReportsTheFirstCause : Obligations.StartReportsTheFirstCause := by
  intro s w hidle hstart
  dsimp only
  rw [writeReg_ctrl_start hstart]
  have hcheck := checkStart_eq (w.extractLsb' 1 2) (w.extractLsb' 4 2) s
  generalize s.srcLen.toNat + (s.srcLen.toNat + 7) / 8 + (if w.extractLsb' 4 2 = 0 then 7 else 0) = room
    at hcheck ⊢
  split_ifs at hcheck ⊢ with hop hmode hsrc hcursor hout hfind
  · exact startCommand_of_cause hidle hcheck
  · exact startCommand_of_cause hidle hcheck
  · exact startCommand_of_cause hidle hcheck
  · exact startCommand_of_cause hidle hcheck
  · exact startCommand_of_cause hidle hcheck
  · exact (startCommand_of_no_cause hidle hcheck).imp_right fun h => h.trans (if_pos hfind)
  · exact (startCommand_of_no_cause hidle hcheck).imp_right fun h => h.trans (if_neg hfind)

end Sys2Proof.Machine

/-! # 70_reset_and_hazards.md: the reset input, and the writes that are ignored -/

namespace Sys2Proof.Machine

/-! ## The reset input (R290, R293) -/

/-- R290's table: PARAM shows CTRL.MODE 0's preset, and every other register is 0. -/
theorem regWord_resetEngine (r : Reg) (s : State) :
    regWord r (resetEngine s) = if r = .param then 0x10000129#32 else 0#32 := by
  cases r with
  | ctrl => exact show Ctrl.reset.word = 0#32 by decide
  | status => exact show Status.reset.word = 0#32 by decide
  | param => exact show paramWord 0 = 0x10000129#32 by decide
  | srcLen | cursor | matchPos | matchLen | outLen | spDec | spEnc | bestSavings | peakCursor => rfl

/-- Reset leaves the lists of written bytes and the power-up number, which are all that a byte reads from. -/
theorem sameBytes_resetEngine (s : State) : SameBytes s (resetEngine s) :=
  ⟨State.imemByte_congr rfl rfl, State.omemByte_congr rfl rfl⟩

/-- Settles O1: the next state is `resetEngine s`, an idle engine with R290's registers over the same bytes. -/
theorem resetInputAbandonsCommandKeepsMemories : Obligations.ResetInputAbandonsCommandKeepsMemories := fun s =>
  ⟨resetEngine s, rfl, rfl, rfl, engineStep_idle rfl, fun r => regWord_resetEngine r s, rfl, rfl, rfl, rfl,
    sameBytes_resetEngine s⟩

/-! ## Ignored writes (R297) -/

/-- One comparison of `Reg.ofOffset`'s chain: it answers the register at `k`, or leaves the rest to answer. -/
theorem Reg.offset_of_ite {off k : Nat} {q r : Reg} {rest : Option Reg} (hq : q.offset = k)
    (hrest : rest = some r → r.offset = off) (h : (if off = k then some q else rest) = some r) : r.offset = off := by
  split_ifs at h with hk
  · cases h
    exact hq.trans hk.symm
  · exact hrest h

/-- Only a register's own offset names it (10_state.md R30). -/
theorem Reg.offset_of_ofOffset {off : Nat} {r : Reg} : Reg.ofOffset off = some r → r.offset = off := by
  unfold Reg.ofOffset
  iterate 12 refine Reg.offset_of_ite rfl ?_
  exact nofun

/-- A register at offset 0x10 or above is read-only (10_state.md R30). -/
theorem writeReg_of_le_offset {r : Reg} (h : 0x10 ≤ r.offset) (w : Word) (s : State) : writeReg r w s = s := by
  refine writeReg_readOnly ⟨?_, ?_, ?_, ?_⟩ w s <;> rintro rfl <;> exact absurd h (by decide)

section
variable {off : Nat} {w : Word} {s : State} (hoff : off < 0x100) (halign : off % 4 = 0)
include hoff halign

/-- The register file takes every aligned word write to its offsets (20_memory.md R73, R77). -/
theorem hostWrite_regs : hostWrite .regs off 4 w s = writeSpace .regs off w s := by
  simp [hostWrite, spaceSize, regFileSize, widthAllowed, hoff, halign]

/-- A word write is ignored where the register at its offset, if there is one, ignores it. -/
theorem hostWrite_regs_ignored (h : ∀ r, Reg.ofOffset off = some r → writeReg r w s = s) :
    hostWrite .regs off 4 w s = .next s := by
  rw [hostWrite_regs hoff halign]
  cases hr : Reg.ofOffset off with
  | none => simp [writeSpace, hr]
  | some r => simp [writeSpace, hr, h r hr]

end

/-- A second START is ignored (60_exceptions.md R266). -/
theorem startCommand_busy {s : State} (h : s.status.busy = true) (op mode : BitVec 2) (ie : Bool) :
    startCommand op mode ie s = s := if_pos h

/-- Settles O19: while BUSY every register ignores writes, and the registers from 0x10 on ignore them always. -/
theorem writesWhileBusyAndToReadOnlyAreIgnored : Obligations.WritesWhileBusyAndToReadOnlyAreIgnored := by
  refine ⟨fun s off w hbusy hoff halign => ?_, fun s mode ie hbusy => ?_, fun s off w hlow hoff halign => ?_⟩
  · exact hostWrite_regs_ignored hoff halign fun r _ => writeReg_busy hbusy r w
  · exact ⟨congrArg _ (startCommand_busy hbusy opFind mode ie), congrArg _ (startCommand_busy hbusy opEncode mode ie)⟩
  · refine hostWrite_regs_ignored hoff halign fun r hr => writeReg_of_le_offset ?_ w s
    rwa [Reg.offset_of_ofOffset hr]

end Sys2Proof.Machine

/-! # 30_encoding.md: decoding and encoding agree -/

namespace Sys2Proof

/-- The operand ranges of a back-reference (R111). -/
theorem refWellFormed_iff {P : Preset} {len dist : Nat} : refWellFormed P len dist = true ↔
    3 ≤ len ∧ len ≤ 18 ∧ P.posSubtract ≤ dist ∧ dist ≤ P.posSubtract + 0xFFF := by
  simp [refWellFormed, and_assoc]

/-! ## Encode, then decode -/

theorem decode_find_word (mode : BitVec 2) (ie : Bool) :
    decode .ctrlWrite (.ctrlWord (ctrlWordOf true opFind mode ie)) = .ok (.find mode ie, []) := by
  simp [decode, decodeCommand, Except.map]

theorem decode_encode_word (mode : BitVec 2) (ie : Bool) :
    decode .ctrlWrite (.ctrlWord (ctrlWordOf true opEncode mode ie)) = .ok (.encode mode ie, []) := by
  have hop : opEncode ≠ opFind := by decide
  simp [decode, decodeCommand, Except.map, hop]

/-- A reference slot reads the field that a back-reference's two bytes make (R103). -/
theorem decode_refBytes (kind : StreamKind) (len disp : Nat) (rest : List Byte) :
    decode (.slot true kind) (.stream (refBytes len disp ++ rest)) =
      .ok (refOfField kind (refField len disp), rest) := by
  rw [← fieldOfBytes_fieldBytes (refField len disp)]
  rfl

theorem refOfField_block {len dist : Nat} (h : (Instr.refB len dist).wellFormed = true) :
    refOfField .block (refField len (dist - Preset.block.posSubtract)) = .refB len dist := by
  obtain ⟨h3, h18, hpos, hmax⟩ := refWellFormed_iff.1 h
  rw [refOfField, refLength_refField _ h3 h18, refDisp_refField _ (Nat.sub_le_iff_le_add'.2 hmax),
    Nat.sub_add_cancel hpos]

theorem refOfField_image {len dist : Nat} (h : (Instr.refI len dist).wellFormed = true) :
    refOfField .image (refField len (dist - Preset.image.posSubtract)) = .refI len dist := by
  obtain ⟨h3, h18, hpos, hmax⟩ := refWellFormed_iff.1 h
  rw [refOfField, refLength_refField _ h3 h18, refDisp_refField _ (Nat.sub_le_iff_le_add'.2 hmax),
    Nat.sub_add_cancel hpos]

/-- A command's word decodes to the command (R108). -/
theorem decode_encode_command {i : Instr} {w : Word} (h : encode i = .ctrlWord w) :
    decode .ctrlWrite (.ctrlWord w) = .ok (i, []) := by
  cases i <;> cases h
  case find mode ie => exact decode_find_word mode ie
  case encode mode ie => exact decode_encode_word mode ie

/-- A stream item's bytes decode to the item at its place (R101 to R104). -/
theorem decode_encode_item {i : Instr} (hi : i.wellFormed = true) {bs : List Byte} (rest : List Byte)
    (h : encode i = .stream bs) : decode i.place (.stream (bs ++ rest)) = .ok (i, rest) := by
  cases i <;> cases h
  case flag f => rfl
  case lit b => rfl
  case refB len dist => exact (decode_refBytes .block _ _ rest).trans (by rw [refOfField_block hi])
  case refI len dist => exact (decode_refBytes .image _ _ rest).trans (by rw [refOfField_image hi])

/-- Settles O5: each field of an encoding holds its operand exactly, by the operand's range. -/
theorem decodeOfEncodeIsTheInstruction : Obligations.DecodeOfEncodeIsTheInstruction := by
  intro i hi
  refine ⟨fun w => decode_encode_command, fun bs rest => decode_encode_item hi rest, ?_⟩
  rintro b kind rest rfl
  rfl

/-! ## Decode, then encode -/

/-- What a field denotes is stored as that field (R103, R104). -/
theorem encode_refOfField (kind : StreamKind) (field : BitVec 16) :
    encode (refOfField kind field) = .stream (fieldBytes field) := by
  have hdisp (p : Nat) : refBytes (refLength field) (refDisp field + p - p) = fieldBytes field := by
    rw [Nat.add_sub_cancel, refBytes, refField_refLength_refDisp]
  cases kind
  · exact congrArg Bits.stream (hdisp _)
  · exact congrArg Bits.stream (hdisp _)

/-- Settles O6: a flag byte and a literal are their own byte, and a REF field is its length and displacement. -/
theorem everyStreamPatternHasItsOwnMeaning : Obligations.EveryStreamPatternHasItsOwnMeaning := by
  refine ⟨fun f rest => ⟨rfl, rfl⟩, fun b kind rest => ⟨rfl, rfl⟩, fun b0 b1 kind rest => ?_⟩
  refine ⟨refOfField kind (fieldOfBytes b0 b1), rfl, refOfField_wellFormed kind _, ?_⟩
  rw [encode_refOfField, fieldBytes_fieldOfBytes]

/-- Settles O7: the decoder evaluated on the spec's example words. -/
theorem exampleWordsOfTheSpecDecode : Obligations.ExampleWordsOfTheSpecDecode := by
  refine ⟨?_, ?_, ?_, ?_, ?_, ?_, ?_, ?_, ?_, ?_, ?_⟩ <;> decide

end Sys2Proof

namespace Sys2Proof.Machine

/-! ## Operands that no encoding has (R111) -/

/-- REF.B with a distance of 1 to 4096 is the decoder's item. -/
theorem exec_refB_of_ranges {len dist : Nat} (h3 : 3 ≤ len) (h18 : len ≤ 18) (h1 : 1 ≤ dist) (hd : dist ≤ 4096)
    (s : State) : exec (.refB len dist) s = .next (s.setDecoder (s.decoder.refB len dist)) :=
  if_pos (refWellFormed_iff.2 ⟨h3, h18, h1, hd⟩)

/-- REF.I with a distance of 3 to 4098 is the decoder's item. -/
theorem exec_refI_of_ranges {len dist : Nat} (h3 : 3 ≤ len) (h18 : len ≤ 18) (hp : 3 ≤ dist) (hd : dist ≤ 4098)
    (s : State) :
    exec (.refI len dist) s = .next (s.setDecoder (s.decoder.refI s.params.imageClamp len dist)) :=
  if_pos (refWellFormed_iff.2 ⟨h3, h18, hp, hd⟩)

/-- Settles O9: the operand check is the conjunction of R111's ranges, each of which fails alone. -/
theorem operandsWithoutEncodingAreRefused : Obligations.OperandsWithoutEncodingAreRefused := by
  intro len dist s
  constructor <;> intro h <;> refine if_neg (mt refWellFormed_iff.1 ?_)
  · rintro ⟨h3, h18, hpos, hmax⟩
    have h1 : 1 ≤ dist := hpos
    have h4096 : dist ≤ 4096 := hmax
    omega
  · rintro ⟨h3, h18, hpos, hmax⟩
    have h3' : 3 ≤ dist := hpos
    have h4098 : dist ≤ 4098 := hmax
    omega

end Sys2Proof.Machine

/-! # A step runs what it fetches -/

namespace Sys2Proof.Machine

/-! ## The host's write of a word to CTRL (60_exceptions.md R260) -/

/-- The host operation writes the word `w` to CTRL, by offset or by bus address (20_memory.md R77). -/
def HostOp.WritesCtrl (p : Params) (op : HostOp) (w : Word) : Prop :=
  op = .write .regs 0 4 w ∨ ∃ addr, op = .busWrite addr 4 w ∧ locate p addr = some (.regs, 0)

/-- A register stands at an aligned offset of the register file (10_state.md R30). -/
theorem Reg.offset_lt_and_aligned (r : Reg) : r.offset < 0x100 ∧ r.offset % 4 = 0 := by cases r <;> decide

/-- The register file takes a word write at each register's offset (10_state.md R30). -/
theorem hostWrite_reg (r : Reg) (w : Word) (s : State) : hostWrite .regs r.offset 4 w s = .next (writeReg r w s) := by
  obtain ⟨hlt, halign⟩ := r.offset_lt_and_aligned
  rw [hostWrite_regs hlt halign, writeSpace, Reg.ofOffset_offset]

theorem decode_ctrlWrite (w : Word) :
    decode .ctrlWrite (.ctrlWord w) = (decodeCommand w).map fun i => (i, []) := rfl

section
variable {p : Params} {op : HostOp} {w : Word} {i : Instr}

theorem HostOp.WritesCtrl.ctrlWrite? (h : op.WritesCtrl p w) : op.ctrlWrite? p = some w := by
  obtain rfl | ⟨addr, rfl, hloc⟩ := h
  · rfl
  · simp [HostOp.ctrlWrite?, HostOp.resolve, hloc]

/-- The operation issues the command that its word decodes to, if any. -/
theorem HostOp.WritesCtrl.command? (h : op.WritesCtrl p w) : op.command? p = (decodeCommand w).toOption := by
  simp only [HostOp.command?, h.ctrlWrite?, decode_ctrlWrite]
  cases decodeCommand w <;> rfl

theorem HostOp.WritesCtrl.hostStep {s : State} (h : op.WritesCtrl s.params w) :
    hostStep op s = .next (writeReg .ctrl w s) := by
  obtain rfl | ⟨addr, rfl, hloc⟩ := h
  · exact hostWrite_reg .ctrl w s
  · simp only [Machine.hostStep, hloc]
    exact hostWrite_reg .ctrl w s

/-- A command is the register write of a word that decodes to it (R260). -/
theorem exec_of_decodeCommand (h : decodeCommand w = .ok i) (s : State) : exec i s = .next (writeReg .ctrl w s) := by
  obtain ⟨hstart, ⟨hop, rfl⟩ | ⟨hop, rfl⟩⟩ := decodeCommand_ok h <;> rw [writeReg_ctrl_start hstart, hop] <;> rfl

theorem decode_ctrlWrite_ok {rest : List Byte} (h : decode .ctrlWrite (.ctrlWord w) = .ok (i, rest)) :
    decodeCommand w = .ok i := by
  rw [decode_ctrlWrite] at h
  cases hc : decodeCommand w with
  | error e => simp [hc, Except.map] at h
  | ok j =>
    simp only [hc, Except.map, Except.ok.injEq, Prod.mk.injEq] at h
    rw [h.1]

end

/-- Settles O10: the operation's word decodes to the command, which the host's turn then runs. -/
theorem stepRunsTheCommandWritten : Obligations.StepRunsTheCommandWritten := by
  intro s op ops w i rest hturn hops hw hdec
  have hcmd : op.command? s.params = some i := by
    rw [HostOp.WritesCtrl.command? hw, decode_ctrlWrite_ok hdec]
    rfl
  exact ⟨decode_wellFormed hdec, step_host_command hturn hops hcmd⟩

/-- Settles O11: the decoder's move with output to come is the item that its place decodes to. -/
theorem stepRunsTheItemInTheStream : Obligations.StepRunsTheItemInTheStream := by
  intro s place i rest hturn hplace hlt hdec
  have hmove : s.decoder.move = .run i := by simp [Decoder.move, hplace, Decoder.full_of_lt hlt, hdec]
  exact ⟨decode_wellFormed hdec, by simp [step, nextAction, agentAction, hturn, decoderAction, hmove]⟩

/-- Settles O12: a word that decodes to a command runs it, which is the register write; any other word is the
host's own operation, which is the register write too. -/
theorem ctrlWriteStepIsTheRegisterWrite : Obligations.CtrlWriteStepIsTheRegisterWrite := by
  refine ⟨fun s op ops w hturn hops hw => ?_, fun i w s hw => ?_⟩
  · have hcmd := HostOp.WritesCtrl.command? hw
    cases hdec : decodeCommand w with
    | ok i =>
      rw [hdec] at hcmd
      rw [step_host_command hturn hops hcmd, exec_of_decodeCommand hdec]
    | error e =>
      rw [hdec] at hcmd
      rw [step_host_other hturn hops hcmd]
      exact HostOp.WritesCtrl.hostStep hw
  · exact exec_of_decodeCommand (decode_ctrlWrite_ok (decode_encode_command hw)) s

/-- Settles O13: with no turn listed the default agent of a BUSY engine is the engine. -/
theorem engineMovesWhileBusyByDefault : Obligations.EngineMovesWhileBusyByDefault := by
  intro s hturns hbusy
  have hturn : s.turn = .engine := by simp [State.turn, hturns, defaultAgent, hbusy]
  have htail : s.turns.tail = s.turns := by rw [hturns, List.tail_nil]
  rw [step_engine hturn, htail, State.setTurns_self]

end Sys2Proof.Machine

/-! # 10_state.md: writes while idle, and what a read can show -/

namespace Sys2Proof.Machine

/-! ## Writes while idle (R31 to R35) -/

theorem writeReg_srcLen_idle {s : State} (h : s.status.busy = false) (w : Word) :
    writeReg .srcLen w s = { s with srcLen := w.setWidth 24 } := by simp [writeReg, h]

theorem writeReg_cursor_idle {s : State} (h : s.status.busy = false) (w : Word) :
    writeReg .cursor w s = { s with cursor := w.setWidth 24 } := by simp [writeReg, h]

/-- Bits 23:0 of a word. -/
theorem setWidth_setWidth_eq_and (w : Word) : (w.setWidth 24).setWidth 32 = w &&& 0xFFFFFF#32 := by
  apply BitVec.eq_of_toNat_eq
  have hmask : (0xFFFFFF#32).toNat = 2 ^ 24 - 1 := rfl
  rw [BitVec.toNat_and, hmask, Nat.and_two_pow_sub_one_eq_mod, BitVec.toNat_setWidth, BitVec.toNat_setWidth]
  omega

/-- A bit stays unless it is cleared. -/
theorem and_not_eq_ite (b clear : Bool) : (b && !clear) = if clear then false else b := by cases clear <;> simp

/-- Settles O16: the writes are `acknowledge` and CTRL's fields, field by field. -/
theorem idleControlWritesStoreAndClear : Obligations.IdleControlWritesStoreAndClear := by
  intro s w hidle
  refine ⟨?_, fun hstart => ?_⟩
  · have hst : s.status.w1c w =
        { busy := false, done := if w.getLsbD 1 then false else s.status.done,
          err := if w.getLsbD 2 then false else s.status.err, errcode := s.status.errcode } := by
      simp only [Status.w1c, hidle, and_not_eq_ite]
    rw [← hst]
    exact (hostWrite_reg .status w s).trans (by rw [writeReg_status_idle hidle]; rfl)
  · exact (hostWrite_reg .ctrl w s).trans (by rw [writeReg_ctrl_noStart hstart hidle]; rfl)

/-- Settles O17: both registers store the word's low 24 bits, and read while idle as they are. -/
theorem positionRegistersKeepTwentyFourBits : Obligations.PositionRegistersKeepTwentyFourBits := by
  intro s w hidle
  refine ⟨⟨_, hostWrite_reg .srcLen w s, ?_, ?_⟩, ⟨_, hostWrite_reg .cursor w s, ?_, ?_⟩⟩
  · rw [writeReg_srcLen_idle hidle, ← setWidth_setWidth_eq_and]
    exact readReg_idle (s := { s with srcLen := w.setWidth 24 }) hidle .srcLen
  · rw [writeReg_srcLen_idle hidle]
  · rw [writeReg_cursor_idle hidle, ← setWidth_setWidth_eq_and]
    exact readReg_idle (s := { s with cursor := w.setWidth 24 }) hidle .cursor
  · rw [writeReg_cursor_idle hidle]

/-! ## Reserved bits and offsets (R30) -/

theorem statusWord_bits : ∀ (busy done err : Bool) (code : BitVec 4),
    (Status.word ⟨busy, done, err, code⟩).toNat < 2 ^ 8 ∧
      Status.word ⟨busy, done, err, code⟩ &&& 0xFFFFFF08#32 = 0#32 := by decide

theorem ctrlWord_bits : ∀ (op mode : BitVec 2) (ie : Bool),
    (Ctrl.word ⟨op, mode, ie⟩).toNat < 2 ^ 9 ∧ Ctrl.word ⟨op, mode, ie⟩ &&& 0xFFFFFEC9#32 = 0#32 := by decide

theorem paramWord_bits : ∀ mode : BitVec 2,
    (paramWord mode).toNat < 2 ^ 29 ∧ paramWord mode &&& 0xE000FE00#32 = 0#32 := by decide

/-- A register's word has no bit above its width (R30's table). -/
theorem regWord_lt (r : Reg) (s : State) : (regWord r s).toNat < 2 ^ r.width := by
  have hext {n : Nat} (x : BitVec n) : (x.setWidth 32).toNat < 2 ^ n := by
    rw [BitVec.toNat_setWidth]
    exact (Nat.mod_le _ _).trans_lt x.isLt
  cases r with
  | ctrl => exact (ctrlWord_bits _ _ _).1
  | status => exact (statusWord_bits _ _ _ _).1
  | param => exact (paramWord_bits _).1
  | srcLen | cursor | matchPos | matchLen | outLen | spDec | spEnc | bestSavings | peakCursor => exact hext _

/-- A free value is cut to the register's width (log 3). -/
theorem freeValue_lt (s : State) (width : Nat) : (s.freeValue width).toNat < 2 ^ width := by
  have hpos : 0 < 2 ^ width := Nat.two_pow_pos width
  rw [State.freeValue, BitVec.toNat_and, BitVec.toNat_ofNat]
  have hmod := Nat.mod_le (2 ^ width - 1) (2 ^ 32)
  have hand := Nat.and_le_right (n := (Config.freeWord s.freeCtr).toNat) (m := (2 ^ width - 1) % 2 ^ 32)
  omega

/-- The registers that no read makes free are exact always (70_reset_and_hazards.md R296). -/
theorem readReg_exact {r : Reg} (h : r.isResult = false) (s : State) : readReg r s = (regWord r s, s) := by
  simp [readReg, h]

/-- Settles O18: an exact read shows the register's fields alone, and a free value is cut to the same width. -/
theorem reservedBitsAndOffsetsReadZero : Obligations.ReservedBitsAndOffsetsReadZero := by
  refine ⟨fun r s => ?_, fun s => ?_, fun s => ?_, fun s => ?_, fun s off hoff => ?_⟩
  · obtain h | ⟨-, -, h⟩ := readReg_cases r s <;> rw [h]
    · exact regWord_lt r s
    · exact freeValue_lt s r.width
  · rw [readReg_exact rfl]
    exact (ctrlWord_bits _ _ _).2
  · rw [readReg_exact rfl]
    exact (statusWord_bits _ _ _ _).2
  · rw [readReg_exact rfl]
    exact (paramWord_bits _).2
  · simp [readSpace, hoff]

end Sys2Proof.Machine

/-! # 60_exceptions.md: what a START changes -/

namespace Sys2Proof.Machine

/-! ## FIND's START and step (40_match_search.md R149) -/

/-- An accepted FIND START stores CTRL and sets the engine running. -/
theorem startCommand_find_of_ready {mode : BitVec 2} {ie : Bool} {P : Preset} {s : State} (h : FindReady mode P s) :
    startCommand opFind mode ie s = acceptFind (s.setCtrl { op := opFind, mode := mode, ie := ie }) := by
  have hcheck : checkStart opFind mode (s.setCtrl { op := opFind, mode := mode, ie := ie }) = none := by
    rw [checkStart_of_preset (.inl rfl) h.preset]
    simp [checkWithPreset, opEncode, opFind, not_lt.2 h.srcFits, not_le.2 h.cursorIn]
  obtain ⟨hb, -⟩ | ⟨-, e, he, -⟩ | ⟨-, -, heq⟩ := startCommand_cases opFind mode ie s
  · simp [h.idle] at hb
  · simp [hcheck] at he
  · rw [heq, if_pos rfl]

/-- The step of a FIND in the search's domain. -/
theorem engineMove_find {s : State} {P : Preset} (hph : s.phase = .findRun) (hP : s.preset = some P)
    (hn : s.srcLen.toNat ≤ s.params.imemSize) (hc : s.cursor.toNat < s.srcLen.toNat) :
    let r := findLongestMatch s.imemByte P s.srcLen.toNat s.cursor.toNat
    engineMove s = .ok (complete { s with
      search := r, matchPos := BitVec.ofNat 24 r.recPos, matchLen := BitVec.ofNat 5 r.recLen }) := by
  simp only [engineMove, hph, findStep, searchAtCursor_eq hP hn hc]

/-- Settles O21: the accepted START leaves a state in the search's domain, whose step evaluates and completes. -/
theorem findStartsAndCompletesInOneStep : Obligations.FindStartsAndCompletesInOneStep := by
  intro mode ie P s h
  refine ⟨by rw [exec, execFind, startCommand_find_of_ready h]; rfl, ?_⟩
  exact ⟨_, engineStep_next_iff.2 (engineMove_find rfl h.preset h.srcFits h.cursorIn), rfl⟩

/-! ## The frame of a START (R263, R266) -/

/-- A START changes CTRL, STATUS, PHASE and the registers that R171 clears, and FIND's none of the latter. -/
theorem startCommand_frame {op mode : BitVec 2} {ie : Bool} {s t : State} (h : startCommand op mode ie s = t) :
    t = { s with
      ctrl := t.ctrl, status := t.status, phase := t.phase, cursor := t.cursor, outLen := t.outLen
      spDec := t.spDec, spEnc := t.spEnc, bestSavings := t.bestSavings, peakCursor := t.peakCursor } ∧
    (op = opFind → t = { s with ctrl := t.ctrl, status := t.status, phase := t.phase }) := by
  subst h
  obtain ⟨-, h⟩ | ⟨-, e, -, h⟩ | ⟨-, -, h⟩ := startCommand_cases op mode ie s <;> rw [h]
  · exact ⟨rfl, fun _ => rfl⟩
  · exact ⟨rfl, fun _ => rfl⟩
  · by_cases hop : op = opFind
    · rw [if_pos hop]
      exact ⟨rfl, fun _ => rfl⟩
    · rw [if_neg hop]
      exact ⟨rfl, fun h => absurd h hop⟩

/-- Settles O23: both commands are `startCommand`, whose frame leaves these fields as they are. -/
theorem commandStartFrame : Obligations.CommandStartFrame := by
  intro mode ie s t
  refine ⟨fun h => ?_, fun h => ?_⟩
  · have hframe : t = { s with
        ctrl := t.ctrl, status := t.status, phase := t.phase, cursor := t.cursor, outLen := t.outLen
        spDec := t.spDec, spEnc := t.spEnc, bestSavings := t.bestSavings, peakCursor := t.peakCursor } := by
      obtain h | h := h
      · exact (startCommand_frame (Host.Outcome.next.inj h)).1
      · exact (startCommand_frame (Host.Outcome.next.inj h)).1
    rw [hframe]
    exact ⟨rfl, rfl, rfl, rfl, rfl, ⟨State.imemByte_congr rfl rfl, State.omemByte_congr rfl rfl⟩, rfl, rfl, rfl, rfl,
      rfl, rfl, rfl, rfl, rfl, rfl, rfl⟩
  · rw [(startCommand_frame (Host.Outcome.next.inj h)).2 rfl]
    exact ⟨rfl, rfl, rfl, rfl, rfl, rfl⟩

end Sys2Proof.Machine

/-! # 20_memory.md: the host's reads and writes -/

namespace Sys2Proof.Machine

section
variable {s : State} {sp : Space} {off size : Nat}

/-- A read of an existing location with an allowed width completes (R77). -/
theorem hostRead_of_allowed (hoff : off < spaceSize s.params sp) (hw : widthAllowed sp off size = true) :
    hostRead sp off size s = .next ((readSpace sp off s).2.seen (readSpace sp off s).1) := by
  rw [hostRead, if_neg (not_le.2 hoff), if_pos hw]

/-- A write to an existing location with an allowed width is the space's own (R77). -/
theorem hostWrite_of_allowed (hoff : off < spaceSize s.params sp) (hw : widthAllowed sp off size = true) (v : Word) :
    hostWrite sp off size v s = writeSpace sp off v s := by
  rw [hostWrite, if_neg (not_le.2 hoff), if_pos hw]

/-- A read of a register (R73). -/
theorem hostRead_reg (r : Reg) (s : State) :
    hostRead .regs r.offset 4 s = .next ((readReg r s).2.seen (readReg r s).1) := by
  obtain ⟨hlt, halign⟩ := r.offset_lt_and_aligned
  rw [hostRead_of_allowed (sp := .regs) hlt (by simp [widthAllowed, halign])]
  simp only [readSpace, Reg.ofOffset_offset]

/-! ## While idle (R76, R79) -/

theorem readByte_idle (h : s.status.busy = false) (b : Byte) : readByte b s = (b.setWidth 32, s) := by
  simp [readByte, h]

/-- Settles O52: an idle block answers every read from its registers and bytes, and keeps itself. -/
theorem idleReadsAreExactAndPure : Obligations.IdleReadsAreExactAndPure := by
  intro s hidle
  refine ⟨fun r => ?_, fun a ha => ?_, fun a ha => ?_⟩
  · rw [hostRead_reg, readReg_idle hidle]
    rfl
  · rw [hostRead_of_allowed (sp := .imem) ha rfl, readSpace, readByte_idle hidle]
    rfl
  · rw [hostRead_of_allowed (sp := .omem) ha rfl, readSpace, readByte_idle hidle]
    rfl

/-- Settles O55: the write is one byte of the memory's list, which reads back as written. -/
theorem hostByteWriteIsReadBack : Obligations.HostByteWriteIsReadBack := by
  intro s a v hidle
  refine ⟨fun ha => ⟨s.setImem (s.imem.set a (v.setWidth 8)), ?_, rfl, fun x => ?_⟩,
    fun ha => ⟨s.setOmem (s.omem.set a (v.setWidth 8)), ?_, rfl, fun x => ?_⟩⟩
  · rw [hostWrite_of_allowed (sp := .imem) ha rfl]
    simp [writeSpace, hidle]
  · exact State.imemByte_setImem_set s a x _
  · rw [hostWrite_of_allowed (sp := .omem) ha rfl]
    simp [writeSpace, hidle]
  · exact State.omemByte_setOmem_set s a x _

/-! ## While BUSY (70_reset_and_hazards.md R295, R296) -/

theorem readByte_state (b : Byte) (s : State) :
    (readByte b s).2 = { s with freeCtr := (readByte b s).2.freeCtr } := by
  unfold readByte
  split_ifs <;> rfl

theorem readReg_state (r : Reg) (s : State) : (readReg r s).2 = { s with freeCtr := (readReg r s).2.freeCtr } := by
  obtain h | ⟨-, -, h⟩ := readReg_cases r s
  · rw [h]
  · rw [h]
    rfl

/-- No read changes more than the counter of free values (R76, log 3). -/
theorem readSpace_state (sp : Space) (off : Nat) (s : State) :
    (readSpace sp off s).2 = { s with freeCtr := (readSpace sp off s).2.freeCtr } := by
  cases sp with
  | regs =>
    cases hr : Reg.ofOffset off with
    | none => simp [readSpace, hr]
    | some r => simpa [readSpace, hr] using readReg_state r s
  | imem => exact readByte_state _ s
  | omem => exact readByte_state _ s

/-- Settles O53: a read changes the record and the counter of free values, and these four registers never read
as free. -/
theorem busyReadsCompleteAndControlIsExact : Obligations.BusyReadsCompleteAndControlIsExact := by
  intro s sp off size _ hoff hw
  refine ⟨⟨(readSpace sp off s).1, (readSpace sp off s).2.freeCtr, ?_⟩, fun r hr => ?_⟩
  · rw [hostRead_of_allowed hoff hw, State.seen, readSpace_state]
  · have hexact : r.isResult = false := by obtain rfl | rfl | rfl | rfl := hr <;> rfl
    rw [hostRead_reg, readReg_exact hexact]
    rfl

/-- Settles O54: the memories refuse writes while BUSY, and only an aligned word is a register access. -/
theorem forbiddenHostAccessesAreRefused : Obligations.ForbiddenHostAccessesAreRefused := by
  intro s off size v
  refine ⟨fun hbusy hoff => ?_, fun hbusy hoff => ?_, fun hoff hbad => ?_⟩
  · rw [hostWrite_of_allowed (sp := .imem) hoff rfl]
    simp [writeSpace, hbusy]
  · rw [hostWrite_of_allowed (sp := .omem) hoff rfl]
    simp [writeSpace, hbusy]
  · have hwidth : ¬ widthAllowed .regs off size = true := by
      simp only [widthAllowed, Bool.and_eq_true, beq_iff_eq]
      omega
    have hin : ¬ spaceSize s.params .regs ≤ off := not_le.2 hoff
    rw [hostWrite, hostRead, if_neg hin, if_neg hin, if_neg hwidth, if_neg hwidth]
    exact ⟨rfl, rfl⟩

end

/-! ## The engine does not see the host's record (70_reset_and_hazards.md R301) -/

/-- The state with another counter of free values and another record of reads. -/
def State.withReads (n : Nat) (ws : List Word) (s : State) : State := { s with freeCtr := n, hostSeen := ws }

section
variable (n : Nat) (ws : List Word) (s : State)

@[simp] theorem State.withReads_params : (s.withReads n ws).params = s.params := rfl
@[simp] theorem State.withReads_preset : (s.withReads n ws).preset = s.preset := rfl
@[simp] theorem State.withReads_phase : (s.withReads n ws).phase = s.phase := rfl
@[simp] theorem State.withReads_srcLen : (s.withReads n ws).srcLen = s.srcLen := rfl
@[simp] theorem State.withReads_cursor : (s.withReads n ws).cursor = s.cursor := rfl
@[simp] theorem State.withReads_outLen : (s.withReads n ws).outLen = s.outLen := rfl
@[simp] theorem State.withReads_flagPtr : (s.withReads n ws).flagPtr = s.flagPtr := rfl
@[simp] theorem State.withReads_flagAcc : (s.withReads n ws).flagAcc = s.flagAcc := rfl
@[simp] theorem State.withReads_imemByte : (s.withReads n ws).imemByte = s.imemByte := rfl
@[simp] theorem State.withReads_setSearch (r : SearchRegs) :
    (s.withReads n ws).setSearch r = (s.setSearch r).withReads n ws := rfl
@[simp] theorem searchAtCursor_withReads : searchAtCursor (s.withReads n ws) = searchAtCursor s := rfl

@[simp] theorem writeOmem_withReads (a : Nat) (v : Byte) :
    (s.withReads n ws).writeOmem a v = (s.writeOmem a v).map (State.withReads n ws) := by
  rw [State.writeOmem, State.writeOmem, apply_ite (Except.map _)]
  rfl

@[simp] theorem advanceChunk_withReads : advanceChunk (s.withReads n ws) = (advanceChunk s).withReads n ws := by
  rw [advanceChunk, advanceChunk, apply_dite (State.withReads n ws)]
  rfl

@[simp] theorem updateTrace_withReads : updateTrace (s.withReads n ws) = (updateTrace s).withReads n ws := by
  rw [updateTrace, updateTrace, apply_ite (State.withReads n ws)]
  rfl

theorem findStep_withReads : findStep (s.withReads n ws) = (findStep s).map (State.withReads n ws) := by
  simp only [findStep, searchAtCursor_withReads]
  cases searchAtCursor s <;> rfl

theorem blockStep_withReads : blockStep (s.withReads n ws) = (blockStep s).map (State.withReads n ws) := by
  simp only [blockStep, State.withReads_cursor, State.withReads_srcLen, State.withReads_outLen, writeOmem_withReads,
    apply_ite (Except.map (State.withReads n ws))]
  cases s.writeOmem s.outLen.toNat 0 <;> rfl

theorem flushStep_withReads : flushStep (s.withReads n ws) = (flushStep s).map (State.withReads n ws) := by
  simp only [flushStep, State.withReads_flagPtr, State.withReads_flagAcc, writeOmem_withReads]
  cases s.writeOmem s.flagPtr.toNat s.flagAcc <;> rfl

theorem emitRef_withReads (P : Preset) (p len : Nat) :
    emitRef P p len (s.withReads n ws) = (emitRef P p len s).map (State.withReads n ws) := by
  simp only [emitRef, State.withReads_cursor, State.withReads_outLen, writeOmem_withReads]
  cases s.writeOmem s.outLen.toNat ((refField len (s.cursor.toNat - p - P.posSubtract)).extractLsb' 8 8) with
  | error e => rfl
  | ok s1 =>
    simp only [Except.map, writeOmem_withReads]
    cases s1.writeOmem (s.outLen.toNat + 1) ((refField len (s.cursor.toNat - p - P.posSubtract)).extractLsb' 0 8) <;>
      rfl

theorem emitLit_withReads : emitLit (s.withReads n ws) = (emitLit s).map (State.withReads n ws) := by
  simp only [emitLit, State.withReads_cursor, State.withReads_outLen, State.withReads_imemByte, writeOmem_withReads]
  cases s.writeOmem s.outLen.toNat (s.imemByte s.cursor.toNat) <;> rfl

theorem emitChunk_withReads (P : Preset) (r : SearchRegs) :
    emitChunk P r (s.withReads n ws) = (emitChunk P r s).map (State.withReads n ws) := by
  simp only [emitChunk, emitRef_withReads, emitLit_withReads, apply_ite (Except.map (State.withReads n ws))]

theorem selectorStep_withReads : selectorStep (s.withReads n ws) = (selectorStep s).map (State.withReads n ws) := by
  simp only [selectorStep, searchAtCursor_withReads]
  cases searchAtCursor s with
  | error e => rfl
  | ok x =>
    simp only [State.withReads_setSearch, emitChunk_withReads]
    cases emitChunk x.1 x.2 (s.setSearch x.2) with
    | error e => rfl
    | ok s1 => simp only [Except.map, updateTrace_withReads, advanceChunk_withReads]

theorem exhaustedStep_withReads : exhaustedStep (s.withReads n ws) = (exhaustedStep s).map (State.withReads n ws) := by
  simp only [exhaustedStep, State.withReads_preset]
  cases s.preset with
  | none => rfl
  | some P =>
    simp only [State.withReads_outLen, writeOmem_withReads, advanceChunk_withReads]
    split_ifs
    · cases s.writeOmem s.outLen.toNat 0 with
      | error e => rfl
      | ok s1 =>
        exact congrArg Except.ok
          (advanceChunk_withReads n ws { s1 with outLen := BitVec.ofNat 25 (s.outLen.toNat + 1) })
    · rfl

/-- The engine neither reads nor writes the record. -/
theorem engineMove_withReads : engineMove (s.withReads n ws) = (engineMove s).map (State.withReads n ws) := by
  unfold engineMove
  rw [State.withReads_phase]
  cases s.phase with
  | idle => rfl
  | findRun => exact findStep_withReads n ws s
  | encBlock => exact blockStep_withReads n ws s
  | encChunk =>
    simp only [chunkStep, State.withReads_cursor, State.withReads_srcLen, selectorStep_withReads,
      exhaustedStep_withReads, apply_ite (Except.map (State.withReads n ws))]
  | encFlush => exact flushStep_withReads n ws s

end

/-- A host read changes the counter of free values and the record alone. -/
theorem hostRead_next {s t : State} {sp : Space} {off size : Nat} (h : hostRead sp off size s = .next t) :
    t = s.withReads t.freeCtr t.hostSeen := by
  unfold hostRead at h
  split_ifs at h
  obtain rfl := Host.Outcome.next.inj h
  rw [readSpace_state]
  rfl

/-- Settles O56: the read left a state that differs in what the engine's step carries along. -/
theorem hostReadsDoNotDisturbTheEngine : Obligations.HostReadsDoNotDisturbTheEngine := by
  intro s t u sp off size hread hstep
  rw [hostRead_next hread, engineStep_next_iff, engineMove_withReads, engineStep_next_iff.1 hstep]
  rfl

end Sys2Proof.Machine

/-! # 70_reset_and_hazards.md: power-up -/

namespace Sys2Proof.Machine

/-- Settles O2: both states are a reset, whose registers R290 gives, with empty lists of written bytes. -/
theorem powerUpLeavesResetValues : Obligations.PowerUpLeavesResetValues := by
  intro t ht
  have hregs (r : Reg) : regWord r t = if r = .param then 0x10000129#32 else 0#32 := by
    obtain rfl | ⟨s, hs⟩ := ht
    · exact (by cases r <;> rfl : regWord r State.reset = regWord r (resetEngine State.reset)).trans
        (regWord_resetEngine r _)
    · obtain rfl := Host.Outcome.next.inj hs
      exact (by cases r <;> rfl : regWord r (powerCycle s) = regWord r (resetEngine s)).trans (regWord_resetEngine r s)
  have hstate : t.status.busy = false ∧ t.irq = false ∧ t.phase = .idle ∧ t.flagPtr = 0 ∧ t.flagAcc = 0 ∧
      t.chunkIdx = 0 ∧ t.imem = [] ∧ t.omem = [] := by
    obtain rfl | ⟨s, hs⟩ := ht
    · exact ⟨rfl, rfl, rfl, rfl, rfl, rfl, rfl, rfl⟩
    · obtain rfl := Host.Outcome.next.inj hs
      exact ⟨rfl, rfl, rfl, rfl, rfl, rfl, rfl, rfl⟩
  obtain ⟨hidle, hrest⟩ := hstate
  exact ⟨fun r => by rw [readReg_idle hidle, hregs], fun off hoff => by simp [readSpace, hoff], hrest⟩

end Sys2Proof.Machine

/-! # 42_chunk_semantics.md: the effect of each item -/

namespace Sys2Proof.Machine

/-! ## The copy repeats the bytes at its distance (R212) -/

theorem copiesFrom_of_full {dist count limit : Nat} {out : List Byte} (h : out.length = limit) :
    CopiesFrom dist count limit out out where
  keeps _ _ := rfl
  length := by omega
  repeats _ h1 h2 := absurd h2 (not_lt.2 h1)

/-- The byte-serial copy is R212's copy, cut at N. -/
theorem copyBytes_copiesFrom {expect dist : Nat} (hd : 1 ≤ dist) : ∀ (k : Nat) (out : List Byte),
    dist ≤ out.length → out.length ≤ expect → CopiesFrom dist k expect out (copyBytes expect dist k out)
  | 0, out, _, he => ⟨fun _ _ => rfl, (min_eq_right he).symm, fun _ h1 h2 => absurd h2 (not_lt.2 h1)⟩
  | k + 1, out, hl, he => by
    obtain heq | hlt := Nat.eq_or_lt_of_le he
    · rw [copyBytes_full heq.ge]
      exact copiesFrom_of_full heq
    · rw [copyBytes_succ hlt hd hl]
      generalize hx : out[out.length - dist]'(by omega) = x
      have hget : out[out.length - dist]? = some x := by rw [← hx]; exact List.getElem?_eq_getElem _
      obtain ⟨hkeeps, hlength, hrepeats⟩ := copyBytes_copiesFrom hd k (out ++ [x]) (by simp; omega) (by simp; omega)
      rw [List.length_append, List.length_singleton] at hkeeps hlength hrepeats
      have hold (j : Nat) (hj : j < out.length) : (copyBytes expect dist k (out ++ [x]))[j]? = out[j]? := by
        rw [hkeeps j (by omega), List.getElem?_append_left hj]
      refine ⟨hold, by omega, fun j hj hj' => ?_⟩
      obtain rfl | hgt := Nat.eq_or_lt_of_le hj
      -- The first byte appended is the one at the distance before it.
      · rw [hold (out.length - dist) (by omega), hget, hkeeps out.length (by omega)]
        simp
      · exact hrepeats j hgt hj'

/-! ## Where a chunk leaves the decoder (R210, R215) -/

/-- A chunk that reads `n` stream bytes and makes the output `new`. -/
def Decoder.chunk (n : Nat) (new : List Byte) (d : Decoder) : Decoder := { d.skip n with out := new }.afterChunk

section
variable {d : Decoder} {n : Nat} {new : List Byte}

@[simp] theorem Decoder.chunk_out : (d.chunk n new).out = new := by simp [Decoder.chunk]
@[simp] theorem Decoder.chunk_idx : (d.chunk n new).idx = d.idx + n := by simp [Decoder.chunk, Decoder.skip]
@[simp] theorem Decoder.chunk_kind : (d.chunk n new).kind = d.kind := by simp [Decoder.chunk, Decoder.skip]
@[simp] theorem Decoder.chunk_stream : (d.chunk n new).stream = d.stream := by simp [Decoder.chunk, Decoder.skip]
@[simp] theorem Decoder.chunk_expect : (d.chunk n new).expect = d.expect := by simp [Decoder.chunk, Decoder.skip]

theorem Decoder.chunk_sameStream : SameStream n d (d.chunk n new) :=
  ⟨chunk_kind, chunk_stream, chunk_expect, chunk_idx⟩

theorem Decoder.chunk_phase_of_full (h : d.expect ≤ new.length) : (d.chunk n new).phase = .done := by
  simp [Decoder.chunk, Decoder.afterChunk, Decoder.full, Decoder.skip, Decoder.finish, h]

/-- The next slot depends on the phase alone (R210). -/
theorem Decoder.nextSlot_phase_congr {e : Decoder} (h : e.phase = d.phase) : e.nextSlot.phase = d.nextSlot.phase := by
  unfold Decoder.nextSlot
  cases hp : d.phase with
  | slot f b =>
    simp only [h.trans hp]
    split_ifs <;> rfl
  | idle | blockStart | done | failed =>
    simp only [h.trans hp]
    exact hp.symm

/-- With output still to come the phase is that of the next slot (R210). -/
theorem Decoder.chunk_phase_of_lt (h : new.length < d.expect) : (d.chunk n new).phase = d.nextSlot.phase := by
  have hfull : ({ d.skip n with out := new } : Decoder).full = false := full_of_lt h
  rw [chunk, afterChunk, hfull]
  exact nextSlot_phase_congr rfl

theorem Decoder.nextSlot_phase_slot {f : Byte} {b : Fin 8} (h : d.phase = .slot f b) :
    d.nextSlot.phase = if h : b.val < 7 then .slot f ⟨b.val + 1, by omega⟩ else .blockStart := by
  simp only [Decoder.nextSlot, h]
  split_ifs <;> rfl

theorem Decoder.chunk_slotAfter {f : Byte} {b : Fin 8} (h : d.phase = .slot f b) :
    SlotAfter f b (d.chunk n new) := by
  rw [SlotAfter, chunk_expect, chunk_out]
  split_ifs with hfull h7
  · exact chunk_phase_of_full hfull
  · rw [chunk_phase_of_lt (not_le.1 hfull), nextSlot_phase_slot h, dif_neg (by omega)]
  · rw [chunk_phase_of_lt (not_le.1 hfull), nextSlot_phase_slot h, dif_pos (by omega)]
    exact ⟨_, rfl, rfl⟩

/-- Where no slot is next the phase stays (log 19). -/
theorem Decoder.chunk_phaseStays (h : ∀ f b, d.phase ≠ .slot f b) : PhaseStaysUntilFull d (d.chunk n new) := by
  rw [PhaseStaysUntilFull, chunk_out]
  split_ifs with hfull
  · exact chunk_phase_of_full hfull
  · rw [chunk_phase_of_lt (not_le.1 hfull), nextSlot_of_no_slot h]

/-! ## Each item with output still to come -/

section
variable (hlt : d.out.length < d.expect)
include hlt

theorem Decoder.flag_of_lt (f : Byte) : d.flag f = { d.skip 1 with phase := .slot f 0 } := unlessFull_of_lt hlt _

theorem Decoder.lit_of_lt (x : Byte) : d.lit x = d.chunk 1 (d.out ++ [x]) := unlessFull_of_lt hlt _

theorem Decoder.refB_of_lt (len dist : Nat) : d.refB len dist = d.copyRef len (refBDistance d.out.length dist) :=
  unlessFull_of_lt hlt _

theorem Decoder.refI_of_lt (clamp : ClampMode) (len dist : Nat) :
    d.refI clamp len dist = d.copyRef len (refIDistance clamp d.out.length dist) := unlessFull_of_lt hlt _

end

theorem Decoder.copyRef_ok (len k : Nat) : d.copyRef len (.ok k) = d.chunk 2 (copyBytes d.expect k len d.out) := rfl

theorem Decoder.copyRef_sameStream (len : Nat) (dist : Except DecodeError Nat) :
    SameStream 2 d (d.copyRef len dist) := by
  cases dist with
  | error e => exact ⟨rfl, rfl, rfl, rfl⟩
  | ok k => exact chunk_sameStream

theorem Decoder.copyRef_error (len : Nat) (e : DecodeError) :
    (d.copyRef len (.error e)).result = some (.error e) ∧ (d.copyRef len (.error e)).out = d.out := ⟨rfl, rfl⟩

/-- A distance within the output copies from there (R212). -/
theorem Decoder.copyRef_copiesFrom (hlt : d.out.length < d.expect) {k : Nat} (hpos : 1 ≤ k) (hk : k ≤ d.out.length)
    (len : Nat) : CopiesFrom k len d.expect d.out (d.copyRef len (.ok k)).out := by
  rw [copyRef_ok, chunk_out]
  exact copyBytes_copiesFrom hpos len d.out hk hlt.le

end

/-! ## The distance checks (R213, R214) -/

theorem refBDistance_of_lt {written dist : Nat} (h : written < dist) :
    refBDistance written dist = .error .invalidBackReference := if_pos h

theorem refIDistance_clamped {written dist : Nat} (h : written < dist) (h2 : 2 ≤ written) :
    refIDistance .compat written dist = .ok 2 := by
  simp [refIDistance, h, not_lt.2 h2]

theorem refIDistance_of_lt {clamp : ClampMode} {written dist : Nat} (h : written < dist)
    (hc : clamp = .strict ∨ written < 2) : refIDistance clamp written dist = .error .invalidBackReference := by
  obtain rfl | h2 := hc
  · simp [refIDistance, h]
  · cases clamp <;> simp [refIDistance, h, h2]

/-! ## The obligations about one item -/

/-- Settles O43: with output to come FLAG is `Decoder.flag`'s update. -/
theorem flagOpensItsBlock : Obligations.FlagOpensItsBlock := by
  intro f s hlt
  rw [exec, execFlag, Decoder.flag_of_lt hlt]
  rfl

/-- Settles O44: LIT is a chunk of one byte. -/
theorem literalAppendsItsByte : Obligations.LiteralAppendsItsByte := by
  intro x f b s hph hlt
  refine ⟨_, rfl, rfl, ?_⟩
  rw [State.setDecoder_decoder, Decoder.lit_of_lt hlt]
  exact ⟨Decoder.chunk_sameStream, Decoder.chunk_out, Decoder.chunk_slotAfter hph⟩

/-- Settles O46: the distance check passes, so REF.B is a chunk of the copied bytes. -/
theorem blockReferenceCopies : Obligations.BlockReferenceCopies := by
  intro len dist f b s h3 h18 h1 h4096 hph hlt hdist
  refine ⟨_, exec_refB_of_ranges h3 h18 h1 h4096 s, rfl, ?_⟩
  rw [State.setDecoder_decoder, Decoder.refB_of_lt hlt, refBDistance_of_le hdist]
  exact ⟨Decoder.copyRef_sameStream len _, Decoder.copyRef_copiesFrom hlt h1 hdist len, Decoder.chunk_slotAfter hph⟩

/-- Settles O47: the distance check fails before anything is copied. -/
theorem blockReferenceBeyondOutputFails : Obligations.BlockReferenceBeyondOutputFails := by
  intro len dist f b s h3 h18 h4096 _ hlt hdist
  refine ⟨_, exec_refB_of_ranges h3 h18 (by omega) h4096 s, rfl, ?_⟩
  rw [State.setDecoder_decoder, Decoder.refB_of_lt hlt, refBDistance_of_lt hdist]
  exact Decoder.copyRef_error len _

/-- Settles O48: each case is one answer of R214's distance check. -/
theorem imageReferenceCopiesOrClamps : Obligations.ImageReferenceCopiesOrClamps := by
  intro len dist f b s h3 h18 hd h4098 hph hlt
  refine ⟨_, exec_refI_of_ranges h3 h18 hd h4098 s, rfl, ?_⟩
  rw [State.setDecoder_decoder, Decoder.refI_of_lt hlt]
  refine ⟨Decoder.copyRef_sameStream len _, fun hin => ?_, fun hout hclamp h2 => ?_, fun hout hc => ?_⟩
  · rw [refIDistance_of_le hin]
    exact ⟨Decoder.copyRef_copiesFrom hlt (by omega) hin len, Decoder.chunk_slotAfter hph⟩
  · rw [hclamp, refIDistance_clamped hout h2]
    exact ⟨Decoder.copyRef_copiesFrom hlt (by omega) h2 len, Decoder.chunk_slotAfter hph⟩
  · rw [refIDistance_of_lt hout hc]
    exact Decoder.copyRef_error len _

/-- Settles O60: the effects are those of the items in a slot, and with no slot next the phase stays. -/
theorem chunksOutOfPlaceKeepTheirEffect : Obligations.ChunksOutOfPlaceKeepTheirEffect := by
  intro s hph hlt
  refine ⟨fun x => ⟨_, rfl, rfl, ?_⟩,
    fun len dist h3 h18 h1 h4096 => ⟨_, exec_refB_of_ranges h3 h18 h1 h4096 s, rfl, ?_⟩,
    fun len dist h3 h18 hd h4098 => ⟨_, exec_refI_of_ranges h3 h18 hd h4098 s, rfl, ?_⟩⟩
  · rw [State.setDecoder_decoder, Decoder.lit_of_lt hlt]
    exact ⟨Decoder.chunk_sameStream, Decoder.chunk_out, Decoder.chunk_phaseStays hph⟩
  · rw [State.setDecoder_decoder, Decoder.refB_of_lt hlt]
    refine ⟨Decoder.copyRef_sameStream len _, fun hin => ?_, fun hout => ?_⟩
    · rw [refBDistance_of_le hin]
      exact ⟨Decoder.copyRef_copiesFrom hlt h1 hin len, Decoder.chunk_phaseStays hph⟩
    · rw [refBDistance_of_lt hout]
      exact Decoder.copyRef_error len _
  · rw [State.setDecoder_decoder, Decoder.refI_of_lt hlt]
    refine ⟨Decoder.copyRef_sameStream len _, fun hin => ?_, fun hout hclamp h2 => ?_, fun hout hc => ?_⟩
    · rw [refIDistance_of_le hin]
      exact ⟨Decoder.copyRef_copiesFrom hlt (by omega) hin len, Decoder.chunk_phaseStays hph⟩
    · rw [hclamp, refIDistance_clamped hout h2]
      exact ⟨Decoder.copyRef_copiesFrom hlt (by omega) h2 len, Decoder.chunk_phaseStays hph⟩
    · rw [refIDistance_of_lt hout hc]
      exact Decoder.copyRef_error len _

end Sys2Proof.Machine

/-! # 42_chunk_semantics.md: what no item changes, and the end of decoding -/

namespace Sys2Proof.Machine

/-! ## The frame of an item (R300) -/

/-- `e` decodes the same stream as `d`, and its output is that of `d` with perhaps more, within N. -/
structure Decoder.Extends (d e : Decoder) : Prop where
  kind   : e.kind = d.kind
  stream : e.stream = d.stream
  expect : e.expect = d.expect
  out    : d.out <+: e.out
  outIn  : e.out.length ≤ max d.out.length d.expect

section
variable {d : Decoder}

theorem Decoder.extends_of_same_out {e : Decoder} (hk : e.kind = d.kind) (hs : e.stream = d.stream)
    (he : e.expect = d.expect) (ho : e.out = d.out) : d.Extends e :=
  ⟨hk, hs, he, ho ▸ List.prefix_refl _, ho ▸ le_max_left _ _⟩

theorem Decoder.extends_chunk {n : Nat} {new : List Byte} (ho : d.out <+: new)
    (hin : new.length ≤ max d.out.length d.expect) : d.Extends (d.chunk n new) where
  kind := chunk_kind
  stream := chunk_stream
  expect := chunk_expect
  out := by rwa [chunk_out]
  outIn := by rwa [chunk_out]

theorem Decoder.extends_copyRef (len : Nat) (dist : Except DecodeError Nat) : d.Extends (d.copyRef len dist) := by
  cases dist with
  | error e => exact extends_of_same_out rfl rfl rfl rfl
  | ok k => exact extends_chunk (copyBytes_prefix ..) (copyBytes_length_le ..)

/-- With the output complete every item stops the decoder (R215). -/
theorem Decoder.item_of_full {clamp : ClampMode} {i : Instr} (hi : Instr.inStream i = true)
    (h : d.expect ≤ d.out.length) : d.item clamp i = d.finish := by
  have hfull : d.full = true := decide_eq_true h
  cases i with
  | flag | lit | refB | refI => exact if_pos hfull
  | find | encode => exact absurd hi (by simp [Instr.inStream])

/-- Each item's effect extends the output within N. -/
theorem Decoder.extends_item (clamp : ClampMode) (i : Instr) (d : Decoder) : d.Extends (d.item clamp i) := by
  cases hi : Instr.inStream i with
  | false => cases i <;> simp [Instr.inStream] at hi <;> exact extends_of_same_out rfl rfl rfl rfl
  | true =>
    obtain hlt | hfull := Nat.lt_or_ge d.out.length d.expect
    · cases i with
      | flag f =>
        rw [item, flag_of_lt hlt]
        exact extends_of_same_out rfl rfl rfl rfl
      | lit b =>
        rw [item, lit_of_lt hlt]
        exact extends_chunk (List.prefix_append _ _) (by simp; omega)
      | refB len dist =>
        rw [item, refB_of_lt hlt]
        exact extends_copyRef len _
      | refI len dist =>
        rw [item, refI_of_lt hlt]
        exact extends_copyRef len _
      | find | encode => simp [Instr.inStream] at hi
    · rw [item_of_full hi hfull]
      exact extends_of_same_out rfl rfl rfl rfl

/-- Inversion of a decoder's step: it is not running, stops at N, lacks the bytes of the next item, or runs it. -/
theorem Decoder.step_cases (clamp : ClampMode) (d : Decoder) :
    (d.place = none ∧ d.step clamp = d) ∨
    (d.expect ≤ d.out.length ∧ d.step clamp = d.finish) ∨
    (d.out.length < d.expect ∧ ∃ place e, d.place = some place ∧
      decode place (.stream (d.stream.drop d.idx)) = .error e ∧ d.step clamp = d.fail .truncatedInput) ∨
    (d.out.length < d.expect ∧ ∃ place i rest, d.place = some place ∧
      decode place (.stream (d.stream.drop d.idx)) = .ok (i, rest) ∧ d.step clamp = d.item clamp i) := by
  cases hp : d.place with
  | none => exact .inl ⟨rfl, by simp [Decoder.step, Decoder.move, hp]⟩
  | some place =>
    by_cases hfull : d.expect ≤ d.out.length
    · exact .inr (.inl ⟨hfull, by simp [Decoder.step, Decoder.move, hp, Decoder.full, hfull]⟩)
    · have hlt := not_le.1 hfull
      cases hd : decode place (.stream (d.stream.drop d.idx)) with
      | error e => exact .inr (.inr (.inl ⟨hlt, place, e, rfl, hd, step_of_decode_error hlt hp hd⟩))
      | ok x => exact .inr (.inr (.inr ⟨hlt, place, x.1, x.2, rfl, hd, step_of_decode_ok hlt hp hd⟩))

theorem Decoder.extends_step (clamp : ClampMode) (d : Decoder) : d.Extends (d.step clamp) := by
  obtain ⟨-, h⟩ | ⟨-, h⟩ | ⟨-, _, _, -, -, h⟩ | ⟨-, _, i, _, -, -, h⟩ := d.step_cases clamp <;> rw [h]
  · exact extends_of_same_out rfl rfl rfl rfl
  · exact extends_of_same_out rfl rfl rfl rfl
  · exact extends_of_same_out rfl rfl rfl rfl
  · exact extends_item clamp i d

end

/-- The items that stand in a stream are those with a stream place. -/
theorem inStream_of_place {i : Instr} (h : i.place = .blockStart ∨ ∃ r k, i.place = .slot r k) :
    Instr.inStream i = true := by
  cases i <;> simp_all [Instr.place, Instr.inStream]

/-- A stream item that answers a state is the decoder's item. -/
theorem exec_item_next {i : Instr} {s t : State} (hi : Instr.inStream i = true) (h : exec i s = .next t) :
    t = s.setDecoder (s.decoder.item s.params.imageClamp i) := by
  cases hw : i.wellFormed with
  | true => exact (Host.Outcome.next.inj ((exec_item hi hw s).symm.trans h)).symm
  | false => cases i <;> simp_all [exec, execRefB, execRefI, Instr.wellFormed, Instr.inStream]

/-- Settles O49: an executed item changes the decoder alone, which it extends. -/
theorem streamItemFrame : Obligations.StreamItemFrame := by
  intro i s t hplace hexec
  obtain rfl := exec_item_next (inStream_of_place hplace) hexec
  obtain ⟨hkind, hstream, hexpect, hout, hin⟩ := Decoder.extends_item s.params.imageClamp i s.decoder
  exact ⟨rfl, ⟨State.imemByte_congr rfl rfl, State.omemByte_congr rfl rfl⟩, hkind, hstream, hexpect, hout, hin⟩

/-! ## The stop at N (R215) -/

theorem Decoder.step_of_full {clamp : ClampMode} {d : Decoder} (hr : d.running = true) (h : d.expect ≤ d.out.length) :
    d.step clamp = d.finish := by
  obtain ⟨hp, -⟩ | ⟨-, hs⟩ | ⟨hlt, -⟩ | ⟨hlt, -⟩ := d.step_cases clamp
  · simp [Decoder.running, hp] at hr
  · exact hs
  · omega
  · omega

/-- Settles O50: with the output complete both the step and an executed item finish. -/
theorem decoderStopsAtItsLength : Obligations.DecoderStopsAtItsLength := by
  intro s hrun hlen
  refine ⟨fun hturn => ⟨_, step_decoder hturn, ?_⟩,
    fun i hw hplace => ⟨_, exec_item (inStream_of_place hplace) hw s, ?_⟩⟩
  · rw [State.setDecoder_decoder, Decoder.step_of_full hrun hlen.ge]
    rfl
  · rw [State.setDecoder_decoder, Decoder.item_of_full (inStream_of_place hplace) hlen.ge]
    rfl

/-! ## Every step reads (R300) -/

/-- A decoded item's bytes are at the head of the stream, and it is the item there whatever follows. -/
theorem decode_stream_ok {place : DecodePlace} {bytes rest : List Byte} {i : Instr}
    (h : decode place (.stream bytes) = .ok (i, rest)) :
    bytes = i.bytes ++ rest ∧ 1 ≤ i.bytes.length ∧
      ∀ rest', decode place (.stream (i.bytes ++ rest')) = .ok (i, rest') := by
  cases place with
  | ctrlWrite => cases h
  | blockStart =>
    cases bytes <;> cases h
    exact ⟨rfl, le_refl 1, fun _ => rfl⟩
  | slot isRef kind =>
    cases isRef with
    | false =>
      cases bytes <;> cases h
      exact ⟨rfl, le_refl 1, fun _ => rfl⟩
    | true =>
      obtain _ | ⟨b0, _ | ⟨b1, bytes⟩⟩ := bytes <;> cases h
      have hbytes : (refOfField kind (fieldOfBytes b0 b1)).bytes = [b0, b1] := by
        rw [Instr.bytes, encode_refOfField, fieldBytes_fieldOfBytes]
      rw [hbytes]
      exact ⟨rfl, by simp, fun _ => rfl⟩

/-- An item with output still to come counts its bytes as read. -/
theorem Decoder.item_idx {clamp : ClampMode} {i : Instr} {d : Decoder} (hi : Instr.inStream i = true)
    (hlt : d.out.length < d.expect) : (d.item clamp i).idx = d.idx + i.bytes.length := by
  cases i with
  | flag f => rw [Decoder.item, flag_of_lt hlt]; rfl
  | lit b => rw [Decoder.item, lit_of_lt hlt, chunk_idx]; rfl
  | refB len dist => rw [Decoder.item, refB_of_lt hlt]; exact (copyRef_sameStream ..).2.2.2
  | refI len dist => rw [Decoder.item, refI_of_lt hlt]; exact (copyRef_sameStream ..).2.2.2
  | find | encode => exact absurd hi (by simp [Instr.inStream])

/-- The head of a running decoder's stream is an item whose bytes are there. -/
theorem Decoder.idx_le_of_decode {d : Decoder} {place : DecodePlace} {i : Instr} {rest : List Byte}
    (hd : decode place (.stream (d.stream.drop d.idx)) = .ok (i, rest)) :
    d.idx < d.idx + i.bytes.length ∧ d.idx + i.bytes.length ≤ d.stream.length := by
  obtain ⟨hbytes, hpos, -⟩ := decode_stream_ok hd
  have hlen := congrArg List.length hbytes
  rw [List.length_drop, List.length_append] at hlen
  omega

/-! ## Decoding ends (R300) -/

/-- A decoder that has been started: it has stopped with its output complete or with an error, or it is running. -/
structure Decoder.Started (d : Decoder) : Prop where
  outIn    : d.out.length ≤ d.expect
  doneFull : d.phase = .done → d.expect ≤ d.out.length
  notIdle  : d.phase ≠ .idle

theorem Decoder.start_started (kind : StreamKind) (S : List Byte) (n : Nat) : (Decoder.start kind S n).Started :=
  ⟨Nat.zero_le n, nofun, nofun⟩

section
variable {d : Decoder}

/-- A running decoder is at a block's start or in a slot. -/
theorem Decoder.phase_of_place {place : DecodePlace} (h : d.place = some place) :
    d.phase = .blockStart ∨ ∃ f b, d.phase = .slot f b := by
  cases hp : d.phase with
  | blockStart => exact .inl rfl
  | slot f b => exact .inr ⟨f, b, rfl⟩
  | idle | done | failed => simp [Decoder.place, hp] at h

/-- A started decoder that is not running has a result. -/
theorem Decoder.Started.result_isSome (h : d.Started) (hp : d.place = none) : d.result.isSome = true := by
  cases hph : d.phase with
  | idle => exact absurd hph h.notIdle
  | done | failed => simp [Decoder.result, hph]
  | blockStart | slot => simp [Decoder.place, hph] at hp

/-- A chunk stops the decoder only with its output complete. -/
theorem Decoder.chunk_started {place : DecodePlace} (hp : d.place = some place) {n : Nat} {new : List Byte}
    (hin : new.length ≤ d.expect) : (d.chunk n new).Started := by
  have hphase : (d.chunk n new).phase ≠ .idle ∧ ((d.chunk n new).phase = .done → d.expect ≤ new.length) := by
    obtain hlt | hfull := Nat.lt_or_ge new.length d.expect
    · rw [chunk_phase_of_lt hlt]
      obtain hb | ⟨f, b, hs⟩ := phase_of_place hp
      · rw [nextSlot_of_no_slot (by simp [hb]), hb]
        exact ⟨nofun, nofun⟩
      · rw [nextSlot_phase_slot hs]
        split_ifs <;> exact ⟨nofun, nofun⟩
    · rw [chunk_phase_of_full hfull]
      exact ⟨nofun, fun _ => hfull⟩
  exact ⟨by simpa using hin, by simpa using hphase.2, hphase.1⟩

theorem Decoder.item_started {clamp : ClampMode} {i : Instr} {place : DecodePlace} (hp : d.place = some place)
    (hi : Instr.inStream i = true) (hlt : d.out.length < d.expect) : (d.item clamp i).Started := by
  have hcopy (len : Nat) (dist : Except DecodeError Nat) : (d.copyRef len dist).Started := by
    cases dist with
    | error e => exact ⟨hlt.le, nofun, nofun⟩
    | ok k => exact chunk_started hp ((copyBytes_length_le ..).trans (max_le hlt.le (le_refl _)))
  cases i with
  | flag f =>
    rw [item, flag_of_lt hlt]
    exact ⟨hlt.le, nofun, nofun⟩
  | lit b =>
    rw [item, lit_of_lt hlt]
    exact chunk_started hp (by simpa using hlt)
  | refB len dist =>
    rw [item, refB_of_lt hlt]
    exact hcopy len _
  | refI len dist =>
    rw [item, refI_of_lt hlt]
    exact hcopy len _
  | find | encode => simp [Instr.inStream] at hi

theorem decode_inStream {place : DecodePlace} {bytes rest : List Byte} {i : Instr}
    (h : decode place (.stream bytes) = .ok (i, rest)) : Instr.inStream i = true := by
  obtain ⟨-, hpos, -⟩ := decode_stream_ok h
  cases i with
  | flag | lit | refB | refI => rfl
  | find | encode => exact absurd hpos (by simp [Instr.bytes, encode])

theorem Decoder.Started.step (h : d.Started) (clamp : ClampMode) : (d.step clamp).Started := by
  obtain ⟨-, hs⟩ | ⟨hfull, hs⟩ | ⟨-, _, _, -, -, hs⟩ | ⟨hlt, _, i, _, hp, hd, hs⟩ := d.step_cases clamp <;> rw [hs]
  · exact h
  · exact ⟨h.outIn, fun _ => hfull, nofun⟩
  · exact ⟨h.outIn, nofun, nofun⟩
  · exact item_started hp (decode_inStream hd) hlt

theorem Decoder.Started.run (clamp : ClampMode) : ∀ (k : Nat) {d : Decoder}, d.Started → (Decoder.run clamp k d).Started
  | 0, _, h => h
  | k + 1, _, h => Decoder.Started.run clamp k (h.step clamp)

/-- A decoder that is not running stays. -/
theorem Decoder.run_of_stopped (clamp : ClampMode) (h : d.place = none) : ∀ k, Decoder.run clamp k d = d
  | 0 => rfl
  | k + 1 => by
    have hstep : d.step clamp = d := by simp [Decoder.step, Decoder.move, h]
    rw [Decoder.run, hstep, Decoder.run_of_stopped clamp h k]

/-- A step stops the decoder or reads at least one byte of its stream. -/
theorem Decoder.step_stops_or_reads (clamp : ClampMode) (d : Decoder) :
    (d.step clamp).place = none ∨ (d.idx < (d.step clamp).idx ∧ (d.step clamp).idx ≤ (d.step clamp).stream.length) := by
  rw [(d.extends_step clamp).stream]
  obtain ⟨hp, hs⟩ | ⟨-, hs⟩ | ⟨-, _, _, -, -, hs⟩ | ⟨hlt, _, i, _, -, hd, hs⟩ := d.step_cases clamp <;> rw [hs]
  · exact .inl hp
  · exact .inl rfl
  · exact .inl rfl
  · rw [item_idx (decode_inStream hd) hlt]
    exact .inr (idx_le_of_decode hd)

/-- A run with more steps than bytes left has stopped. -/
theorem Decoder.run_stops (clamp : ClampMode) : ∀ (k : Nat) {d : Decoder}, d.idx ≤ d.stream.length →
    d.stream.length < d.idx + k → (Decoder.run clamp k d).place = none
  | 0, _, hle, hlt => by omega
  | k + 1, d, _, hlt => by
    rw [Decoder.run]
    obtain hstop | ⟨hread, hle⟩ := d.step_stops_or_reads clamp
    · rw [run_of_stopped clamp hstop]
      exact hstop
    · exact Decoder.run_stops clamp k hle (by rw [(d.extends_step clamp).stream]; omega)

theorem Decoder.run_expect (clamp : ClampMode) : ∀ (k : Nat) (d : Decoder), (Decoder.run clamp k d).expect = d.expect
  | 0, _ => rfl
  | k + 1, d => (Decoder.run_expect clamp k (d.step clamp)).trans (d.extends_step clamp).expect

end

/-- Settles O51: every step that does not stop the decoder reads a byte, and it is done only with N bytes. -/
theorem decodingAlwaysEndsWithinBounds : Obligations.DecodingAlwaysEndsWithinBounds := by
  intro kind clamp S n
  have hstarted := (Decoder.start_started kind S n).run clamp (S.length + 1)
  have hstop : (Decoder.run clamp (S.length + 1) (Decoder.start kind S n)).place = none :=
    Decoder.run_stops clamp _ (Nat.zero_le _) (by simp [Decoder.start])
  have hexpect := Decoder.run_expect clamp (S.length + 1) (Decoder.start kind S n)
  refine ⟨hstarted.result_isSome hstop, fun out hout => ?_⟩
  unfold decodeStream at hout
  generalize Decoder.run clamp (S.length + 1) (Decoder.start kind S n) = d at *
  cases hph : d.phase with
  | done =>
    obtain rfl : d.out = out := by simpa [Decoder.result, hph] using hout
    exact (le_antisymm hstarted.outIn (hstarted.doneFull hph)).trans hexpect
  | idle | blockStart | slot | failed => simp [Decoder.result, hph] at hout

end Sys2Proof.Machine

/-! # The engine's step in any state, and from states that meet the invariant -/

namespace Sys2Proof.Machine

/-! ## The frame of an engine step (40_match_search.md R149, 70_reset_and_hazards.md R305) -/

/-- A chunk step moves only what R173 to R178 name. -/
theorem chunkStep_frame {s t : State} (h : chunkStep s = .ok t) :
    t = { s with
      outLen := t.outLen, omem := t.omem, cursor := t.cursor, spDec := t.spDec, spEnc := t.spEnc
      bestSavings := t.bestSavings, peakCursor := t.peakCursor, search := t.search, flagAcc := t.flagAcc
      phase := t.phase, chunkIdx := t.chunkIdx } := by
  unfold chunkStep at h
  split_ifs at h
  · obtain ⟨P, r, s1, -, rfl, ⟨-, he⟩ | ⟨-, he⟩⟩ := selectorStep_ok h
    · obtain ⟨-, rfl⟩ := emitRef_ok he
      rw [advanceChunk_eq, updateTrace_eq]
      rfl
    · obtain ⟨-, rfl⟩ := emitLit_ok he
      rw [advanceChunk_eq, updateTrace_eq]
      rfl
  · obtain ⟨P, -, ⟨-, -, rfl⟩ | ⟨-, rfl⟩⟩ := exhaustedStep_ok h
    · rw [advanceChunk_eq]
      rfl
    · rw [advanceChunk_eq]

theorem sameOutsideEngine_refl (s : State) : SameOutsideEngine s s := (EncodeFrame.refl s).outside

/-- An engine step leaves everything outside the engine. -/
theorem engineMove_outside {s t : State} (h : engineMove s = .ok t) : SameOutsideEngine s t := by
  have hself := sameOutsideEngine_refl s
  unfold engineMove at h
  cases hp : s.phase with simp only [hp] at h
  | idle =>
    cases h
    exact hself
  | findRun =>
    obtain ⟨P, r, -, rfl⟩ := findStep_ok h
    exact hself
  | encBlock =>
    obtain ⟨-, -, rfl⟩ | ⟨-, rfl⟩ := blockStep_ok h
    · exact hself
    · exact hself
  | encChunk =>
    rw [chunkStep_frame h]
    exact hself
  | encFlush =>
    obtain ⟨-, rfl⟩ := flushStep_ok h
    exact hself

/-- Only FIND's step writes the match result. -/
theorem engineMove_match {s t : State} (h : engineMove s = .ok t) (hph : s.phase ≠ .findRun) :
    t.matchPos = s.matchPos ∧ t.matchLen = s.matchLen := by
  unfold engineMove at h
  cases hp : s.phase with simp only [hp] at h
  | idle =>
    cases h
    exact ⟨rfl, rfl⟩
  | findRun => exact absurd hp hph
  | encBlock =>
    obtain ⟨-, -, rfl⟩ | ⟨-, rfl⟩ := blockStep_ok h
    · exact ⟨rfl, rfl⟩
    · exact ⟨rfl, rfl⟩
  | encChunk =>
    rw [chunkStep_frame h]
    exact ⟨rfl, rfl⟩
  | encFlush =>
    obtain ⟨-, rfl⟩ := flushStep_ok h
    exact ⟨rfl, rfl⟩

/-- Settles O35: STATUS stays or completes, which keeps ERR and ERRCODE, and FIND's step writes its result alone. -/
theorem engineStepFrame : Obligations.EngineStepFrame := by
  intro s t hstep
  have hmove := engineStep_next_iff.1 hstep
  have hout := engineMove_outside hmove
  obtain ⟨-, -, himem, -, -, hpower, -⟩ := id hout
  have hstatus : t.status.err = s.status.err ∧ t.status.errcode = s.status.errcode := by
    obtain ⟨-, h | h⟩ := engineMove_ctrl_status hmove <;> rw [h] <;> exact ⟨rfl, rfl⟩
  refine ⟨hout, State.imemByte_congr himem hpower, hstatus.1, hstatus.2, engineMove_match hmove, fun hph => ?_⟩
  simp only [engineMove, hph] at hmove
  obtain ⟨P, r, -, rfl⟩ := findStep_ok hmove
  exact ⟨rfl, rfl, rfl, rfl, rfl, rfl, rfl, rfl, rfl, rfl⟩

/-- What every write inside OMEM keeps of its list, an engine step keeps. -/
theorem engineMove_omem {s t : State} (h : engineMove s = .ok t) {Q : Memory → Prop}
    (hset : ∀ m a v, Q m → a < s.params.omemSize → Q (m.set a v)) (hq : Q s.omem) : Q t.omem := by
  unfold engineMove at h
  cases hp : s.phase with simp only [hp] at h
  | idle =>
    cases h
    exact hq
  | findRun =>
    obtain ⟨P, r, -, rfl⟩ := findStep_ok h
    exact hq
  | encBlock =>
    obtain ⟨-, hlt, rfl⟩ | ⟨-, rfl⟩ := blockStep_ok h
    · exact hset _ _ _ hq hlt
    · exact hq
  | encChunk =>
    unfold chunkStep at h
    split_ifs at h
    · obtain ⟨P, r, s1, -, rfl, ⟨-, he⟩ | ⟨-, he⟩⟩ := selectorStep_ok h
      · obtain ⟨hlt, rfl⟩ := emitRef_ok he
        rw [advanceChunk_eq, updateTrace_eq]
        exact hset _ _ _ (hset _ _ _ hq (Nat.lt_of_succ_lt hlt)) hlt
      · obtain ⟨hlt, rfl⟩ := emitLit_ok he
        rw [advanceChunk_eq, updateTrace_eq]
        exact hset _ _ _ hq hlt
    · obtain ⟨P, -, ⟨-, hlt, rfl⟩ | ⟨-, rfl⟩⟩ := exhaustedStep_ok h <;> rw [advanceChunk_eq]
      · exact hset _ _ _ hq hlt
      · exact hq
  | encFlush =>
    obtain ⟨hlt, rfl⟩ := flushStep_ok h
    exact hset _ _ _ hq hlt

/-! ## What an engine step does from a state that meets the invariant -/

/-- The engine's steps, with what the invariant says before each (R149, R172 to R180). -/
inductive EngineMoved (s t : State) : Prop
  | idle (phase : s.phase = .idle) (next : t = s)
  | find (P : Preset) (r : SearchRegs) (phase : s.phase = .findRun) (search : searchAtCursor s = .ok (P, r))
      (next : t = complete { s with
        search := r, matchPos := BitVec.ofNat 24 r.recPos, matchLen := BitVec.ofNat 5 r.recLen })
  | finish (phase : s.phase = .encBlock) (next : t = complete s)
  | block (P : Preset) (phase : s.phase = .encBlock) (room : EncodeRoom P s) (bound : BoundaryBound P s)
      (more : s.cursor.toNat < s.srcLen.toNat) (next : BlockStarted s t)
  | chunk (P : Preset) (c : Nat) (bs : List Byte) (acc : Byte) (phase : s.phase = .encChunk) (room : EncodeRoom P s)
      (bound : InBlockBound P s) (flagIn : s.flagPtr.toNat < s.outLen.toNat)
      (more : s.cursor.toNat < s.srcLen.toNat) (used : 1 ≤ c) (short : bs.length ≤ c)
      (rest : c ≤ s.srcLen.toNat - s.cursor.toNat) (next : ChunkEmitted c bs acc s t)
  | filler (P : Preset) (phase : s.phase = .encChunk) (room : EncodeRoom P s) (bound : InBlockBound P s)
      (flagIn : s.flagPtr.toNat < s.outLen.toNat) (exhausted : s.srcLen.toNat ≤ s.cursor.toNat)
      (next : SlotExhausted P s t)
  | flush (P : Preset) (phase : s.phase = .encFlush) (room : EncodeRoom P s) (bound : BoundaryBound P s)
      (flagIn : s.flagPtr.toNat < s.outLen.toNat) (next : FlagWritten s t)

/-- From a state that meets the invariant the engine moves. -/
theorem State.Inv.engineMove {s : State} (h : s.Inv) : ∃ t, engineMove s = .ok t ∧ EngineMoved s t := by
  have hrun := h.run
  cases hph : s.phase with simp only [State.RunInv, hph] at hrun
  | idle => exact ⟨s, by rw [Machine.engineMove, hph], .idle hph rfl⟩
  | findRun =>
    obtain ⟨-, hP, hn, hc⟩ := hrun
    obtain ⟨P, hP⟩ := Option.isSome_iff_exists.1 hP
    exact ⟨_, engineMove_find hph hP hn hc, .find P _ hph (searchAtCursor_eq hP hn hc) rfl⟩
  | encBlock =>
    obtain ⟨P, room, hb⟩ := hrun
    by_cases hc : s.cursor.toNat < s.srcLen.toNat
    · obtain ⟨t, hstep, ht⟩ := room.blockStart hph hb hc
      exact ⟨t, hstep, .block P hph room hb hc ht⟩
    · exact ⟨_, engineMove_end hph (not_lt.1 hc), .finish hph rfl⟩
  | encChunk =>
    obtain ⟨P, room, hb, hflag⟩ := hrun
    by_cases hc : s.cursor.toNat < s.srcLen.toNat
    · by_cases hl : 2 < (findLongestMatch s.imemByte P s.srcLen.toNat s.cursor.toNat).recLen
      · obtain ⟨t, hstep, ht⟩ := room.emitsRef hph hb hc hl
        exact ⟨t, hstep, .chunk P _ _ _ hph room hb hflag hc (by omega) hl.le recLen_le_rest ht⟩
      · obtain ⟨t, hstep, ht⟩ := room.emitsLit hph hb hc (not_lt.1 hl)
        exact ⟨t, hstep, .chunk P 1 _ _ hph room hb hflag hc (le_refl 1) (le_refl 1) (by omega) ht⟩
    · obtain ⟨t, hstep, ht⟩ := room.exhausted hph hb (not_lt.1 hc)
      exact ⟨t, hstep, .filler P hph room hb hflag (not_lt.1 hc) ht⟩
  | encFlush =>
    obtain ⟨P, room, hb, hflag⟩ := hrun
    obtain ⟨t, hstep, ht⟩ := room.flush hph hb hflag
    exact ⟨t, hstep, .flush P hph room hb hflag ht⟩

/-- The step that the engine takes is the one that the invariant gives. -/
theorem State.Inv.engineMoved {s t : State} (h : s.Inv) (hmove : Machine.engineMove s = .ok t) : EngineMoved s t := by
  obtain ⟨u, hu, hmoved⟩ := h.engineMove
  obtain rfl := Except.ok.inj (hu.symm.trans hmove)
  exact hmoved

/-- Settles O34: in each phase the invariant gives the step room. -/
theorem engineStepNeverFails : Obligations.EngineStepNeverFails := by
  intro s hinv
  obtain ⟨t, hmove, -⟩ := hinv.engineMove
  exact ⟨t, engineStep_next_iff.2 hmove⟩

/-- Bytes written over a memory leave the addresses below and above them. -/
theorem overlay_of_outside {o a : Nat} {bs : List Byte} (h : a < o ∨ o + bs.length ≤ a) (f : Nat → Byte) :
    overlay o bs f a = f a := by
  obtain hlt | hge := h
  · simp [overlay, hlt]
  · simp [overlay, List.getElem?_eq_none (show bs.length ≤ a - o by omega)]

/-- A step that appends `bs` at OUT_LEN writes between the old OUT_LEN and the new one (20_memory.md R84). -/
theorem omem_of_appended {s t : State} {bs : List Byte} (hout : t.outLen.toNat = s.outLen.toNat + bs.length)
    (hbytes : ∀ a, t.omemByte a = overlay s.outLen.toNat bs s.omemByte a) :
    s.outLen.toNat ≤ t.outLen.toNat ∧
      ∀ a, a < s.outLen.toNat ∨ t.outLen.toNat ≤ a → t.omemByte a = s.omemByte a := by
  refine ⟨by omega, fun a ha => ?_⟩
  rw [hbytes, overlay_of_outside (hout ▸ ha)]

/-- Settles O36: each step of a block appends its bytes at OUT_LEN, and the flush writes one byte below it. -/
theorem engineWritesOmemInOrder : Obligations.EngineWritesOmemInOrder := by
  intro s t hinv hstep
  cases hinv.engineMoved (engineStep_next_iff.1 hstep) with
  | idle phase next =>
    subst next
    simp [phase]
  | find P r phase search next =>
    subst next
    simp [phase]
    rfl
  | finish phase next =>
    subst next
    refine ⟨by simp [phase], fun _ => ⟨le_refl _, fun _ _ => rfl⟩, by simp [phase]⟩
  | block P phase room bound more next =>
    exact ⟨by simp [phase], fun _ => omem_of_appended (bs := [0]) next.outLen next.bytes, by simp [phase]⟩
  | chunk P c bs acc phase room bound flagIn more used short rest next =>
    exact ⟨by simp [phase], fun _ => omem_of_appended next.outLen next.bytes, by simp [phase]⟩
  | filler P phase room bound flagIn exhausted next =>
    exact ⟨by simp [phase], fun _ => omem_of_appended next.outLen next.bytes, by simp [phase]⟩
  | flush P phase room bound flagIn next =>
    have hout : t.outLen = s.outLen := by rw [next.frame]
    refine ⟨by simp [phase], by simp [phase], fun _ => ⟨hout ▸ flagIn, hout, fun a ha => ?_⟩⟩
    rw [next.bytes, if_neg ha]

end Sys2Proof.Machine

/-! # Every step keeps the invariant -/

namespace Sys2Proof.Machine

/-! ## What the invariant does not depend on -/

/-- A running command's part reads none of the registers, memories and host's fields named here. -/
theorem State.RunInv.of_frame {s t : State} (h : s.RunInv) (hf : t = { s with
    matchPos := t.matchPos, matchLen := t.matchLen, flagAcc := t.flagAcc, search := t.search, imem := t.imem
    omem := t.omem, decoder := t.decoder, powerUp := t.powerUp, freeCtr := t.freeCtr, hostOps := t.hostOps
    hostSeen := t.hostSeen, turns := t.turns }) : t.RunInv := by
  have hp : t.phase = s.phase := by rw [hf]
  unfold State.RunInv at h ⊢
  rw [hp]
  cases hph : s.phase with simp only [hph] at h ⊢
  | findRun =>
    rw [hf]
    exact h
  | encBlock =>
    obtain ⟨P, room, hb⟩ := h
    rw [hf]
    exact ⟨P, { room with }, hb⟩
  | encChunk =>
    obtain ⟨P, room, hb, hflag⟩ := h
    rw [hf]
    exact ⟨P, { room with }, hb, hflag⟩
  | encFlush =>
    obtain ⟨P, room, hb, hflag⟩ := h
    rw [hf]
    exact ⟨P, { room with }, hb, hflag⟩

/-- The invariant does not read the host's side, the turns or the counter of free values. -/
theorem State.Inv.of_hostSide {s t : State} (h : s.Inv) (hf : t = { s with
    freeCtr := t.freeCtr, hostOps := t.hostOps, hostSeen := t.hostSeen, turns := t.turns }) : t.Inv := by
  have hrun : t.RunInv := h.run.of_frame (by rw [hf])
  rw [hf] at hrun ⊢
  exact { h with run := hrun }

/-- An idle engine's state, whatever its registers are. -/
theorem State.Inv.of_idle {s t : State} (h : s.Inv) (hf : t = { s with
    ctrl := t.ctrl, status := t.status, srcLen := t.srcLen, cursor := t.cursor, phase := .idle })
    (hb : t.status.busy = false) (hcode : t.status.errcode.toNat ≤ 5) : t.Inv := by
  rw [hf]
  exact { h with
    busyPhase := by simp [hb]
    busyClean := by simp [hb]
    codeLegal := hcode
    run := trivial }

/-- R261's codes. -/
theorem startError_code_le (e : StartError) : e.code.toNat ≤ 5 := by cases e <;> decide

section
variable {s t : State} (h : s.Inv)
include h

theorem State.Inv.phase_idle (hidle : s.status.busy = false) : s.phase = .idle := by
  by_contra hph
  simp [h.busyPhase.2 hph] at hidle

/-! ## START (60_exceptions.md R260 to R266) -/

theorem State.Inv.refuseStart (e : StartError) (hidle : s.status.busy = false) (c : Ctrl) :
    (refuseStart e (s.setCtrl c)).Inv := by
  refine h.of_idle ?_ rfl (startError_code_le e)
  rw [← h.phase_idle hidle]
  rfl

end

/-- OP is one of the two reserved values or of the two commands' (30_encoding.md R108). -/
theorem op_cases : ∀ op : BitVec 2, op = 0 ∨ op = 3 ∨ op = opFind ∨ op = opEncode := by decide

/-- A START that passes the checks is a FIND or an ENCODE that is ready (R262). -/
theorem ready_of_no_cause {op mode : BitVec 2} {s : State} (hidle : s.status.busy = false)
    (h : checkStart op mode s = none) :
    ∃ P, (op = opFind ∧ FindReady mode P s) ∨ (op = opEncode ∧ EncodeReady mode P s) := by
  have hop : op = opFind ∨ op = opEncode := by
    obtain rfl | rfl | hop := op_cases op
    · simp [checkStart] at h
    · simp [checkStart] at h
    · exact hop
  cases hP : presetOf mode with
  | none => obtain rfl | rfl := hop <;> simp [checkStart, hP, opFind, opEncode] at h
  | some P =>
    rw [checkStart_of_preset hop hP] at h
    unfold checkWithPreset at h
    split_ifs at h with hsrc hcur hout
    obtain rfl | rfl := hop
    · exact ⟨P, .inl ⟨rfl, hidle, hP, not_lt.1 hsrc, not_le.1 fun hle => hcur ⟨rfl, hle⟩⟩⟩
    · exact ⟨P, .inr ⟨rfl, hidle, hP, not_lt.1 hsrc, not_lt.1 fun hlt => hout ⟨rfl, hlt⟩⟩⟩

section
variable {s t : State} (h : s.Inv)
include h

/-- The invariant of a command that has just been accepted. -/
theorem State.Inv.of_accepted (hf : t = { s with
    ctrl := t.ctrl, status := Status.accepted, phase := t.phase, cursor := t.cursor, outLen := t.outLen
    spDec := t.spDec, spEnc := t.spEnc, bestSavings := t.bestSavings, peakCursor := t.peakCursor })
    (hph : t.phase ≠ .idle) (hrun : t.RunInv) : t.Inv := by
  rw [hf] at hrun ⊢
  exact { h with
    busyPhase := ⟨fun _ => hph, fun _ => rfl⟩
    busyClean := fun _ => rfl
    codeLegal := Nat.zero_le 5
    run := hrun }

theorem State.Inv.startCommand (op mode : BitVec 2) (ie : Bool) : (startCommand op mode ie s).Inv := by
  obtain ⟨-, heq⟩ | ⟨hidle, e, -, heq⟩ | ⟨hidle, hcheck, heq⟩ := startCommand_cases op mode ie s <;> rw [heq]
  · exact h
  · exact h.refuseStart e hidle _
  · obtain ⟨P, ⟨rfl, -, hP, hn, hc⟩ | ⟨rfl, ready⟩⟩ := ready_of_no_cause (s := s.setCtrl _) hidle hcheck
    · rw [if_pos rfl]
      exact h.of_accepted rfl nofun ⟨rfl, Option.isSome_of_eq_some hP, hn, hc⟩
    · rw [if_neg (by decide)]
      obtain ⟨sim, hb, -⟩ := acceptEncode_atBlock (ie := ie) ready
      exact h.of_accepted rfl nofun ⟨P, sim.room, hb⟩

/-! ## The host's operations -/

theorem State.Inv.writeReg (r : Reg) (w : Word) : (writeReg r w s).Inv := by
  cases hb : s.status.busy with
  | true =>
    rw [writeReg_busy hb]
    exact h
  | false =>
    have hph := h.phase_idle hb
    cases r with
    | ctrl =>
      cases hw : ctrlStart w with
      | true =>
        rw [writeReg_ctrl_start hw]
        exact h.startCommand _ _ _
      | false =>
        rw [writeReg_ctrl_noStart hw hb]
        exact h.of_idle (by rw [← hph]; rfl) hb h.codeLegal
    | status =>
      rw [writeReg_status_idle hb]
      exact h.of_idle (by rw [← hph]; rfl) hb h.codeLegal
    | srcLen =>
      rw [writeReg_srcLen_idle hb]
      exact h.of_idle (by rw [← hph]) hb h.codeLegal
    | cursor =>
      rw [writeReg_cursor_idle hb]
      exact h.of_idle (by rw [← hph]) hb h.codeLegal
    | matchPos | matchLen | outLen | spDec | spEnc | bestSavings | peakCursor | param => exact h

theorem State.Inv.setImem {a : Nat} (ha : a < s.params.imemSize) (v : Byte) : (s.setImem (s.imem.set a v)).Inv :=
  { h with
    imemWf := Memory.set_wf h.imemWf a v
    imemIn := Memory.set_within h.imemIn ha v
    run := h.run.of_frame rfl }

theorem State.Inv.setOmem {a : Nat} (ha : a < s.params.omemSize) (v : Byte) : (s.setOmem (s.omem.set a v)).Inv :=
  { h with
    omemWf := Memory.set_wf h.omemWf a v
    omemIn := Memory.set_within h.omemIn ha v
    run := h.run.of_frame rfl }

theorem State.Inv.hostWrite {sp : Space} {off size : Nat} {v : Word} (hw : hostWrite sp off size v s = .next t) :
    t.Inv := by
  unfold Machine.hostWrite at hw
  split_ifs at hw with hoff
  cases sp with
  | regs =>
    simp only [writeSpace] at hw
    split at hw <;> obtain rfl := Host.Outcome.next.inj hw
    · exact h.writeReg _ v
    · exact h
  | imem =>
    simp only [writeSpace] at hw
    split_ifs at hw
    obtain rfl := Host.Outcome.next.inj hw
    exact h.setImem (not_le.1 hoff) _
  | omem =>
    simp only [writeSpace] at hw
    split_ifs at hw
    obtain rfl := Host.Outcome.next.inj hw
    exact h.setOmem (not_le.1 hoff) _

theorem State.Inv.hostRead {sp : Space} {off size : Nat} (hr : hostRead sp off size s = .next t) : t.Inv :=
  h.of_hostSide (by rw [hostRead_next hr]; rfl)

theorem State.Inv.hostPoll {off : Nat} {mask v : Word} (hp : hostPoll off mask v s = .next t) : t.Inv := by
  unfold Machine.hostPoll at hp
  split_ifs at hp <;> obtain rfl := Host.Outcome.next.inj hp
  · exact h.of_hostSide (by rw [readSpace_state])
  · exact h.of_hostSide (by rw [readSpace_state]; rfl)

theorem State.Inv.setDecoder {d : Decoder} (hd : d.out.length ≤ d.expect) : (s.setDecoder d).Inv :=
  { h with decoderIn := hd, run := h.run.of_frame rfl }

theorem State.Inv.resetEngine : (resetEngine s).Inv :=
  { h with
    busyPhase := iff_of_false nofun fun hph => hph rfl
    busyClean := nofun
    codeLegal := Nat.zero_le 5
    matchLenIn := Nat.zero_le 18
    run := trivial }

theorem State.Inv.powerCycle : (powerCycle s).Inv :=
  { h.resetEngine with
    imemWf := List.Pairwise.nil
    omemWf := List.Pairwise.nil
    imemIn := nofun
    omemIn := nofun
    run := trivial }

theorem State.Inv.hostStep {op : HostOp} (hs : hostStep op s = .next t) : t.Inv := by
  cases op with simp only [Machine.hostStep] at hs
  | write sp off size v => exact h.hostWrite hs
  | read sp off size => exact h.hostRead hs
  | busWrite addr size v =>
    split at hs
    · exact h.hostWrite hs
    · cases hs
  | busRead addr size =>
    split at hs
    · exact h.hostRead hs
    · cases hs
  | poll off mask v => exact h.hostPoll hs
  | waitIrq =>
    split_ifs at hs <;> obtain rfl := Host.Outcome.next.inj hs
    · exact h
    · exact h.of_hostSide rfl
  | reset =>
    obtain rfl := Host.Outcome.next.inj hs
    exact h.resetEngine
  | powerUp =>
    obtain rfl := Host.Outcome.next.inj hs
    exact h.powerCycle
  | decode kind stream n =>
    obtain rfl := Host.Outcome.next.inj hs
    exact h.setDecoder (Nat.zero_le n)

/-! ## The engine's steps -/

/-- A command's last step leaves an idle engine (R264). -/
theorem State.Inv.complete : (complete s).Inv :=
  h.of_idle rfl rfl h.codeLegal

/-- What a step of a running ENCODE leaves of the invariant, its phase's part apart. -/
theorem State.Inv.of_encodeFrame (hmove : Machine.engineMove s = .ok t) (hf : EncodeFrame s t) (hph : s.phase ≠ .idle)
    (hph' : t.phase ≠ .idle) (hrun : t.RunInv) : t.Inv := by
  obtain ⟨⟨-, -, himem, hdec, hparams, -⟩, -, hlen, hstatus⟩ := hf
  have hacc := h.accepted hph
  exact {
    params := hparams ▸ h.params
    imemWf := himem ▸ h.imemWf
    omemWf := engineMove_omem hmove (fun _ a v hm _ => Memory.set_wf hm a v) h.omemWf
    imemIn := by rw [himem, hparams]; exact h.imemIn
    omemIn := by
      rw [hparams]
      exact engineMove_omem (Q := fun m => m.within s.params.omemSize) hmove
        (fun _ a v hm ha => Memory.set_within hm ha v) h.omemIn
    busyPhase := by simp [hstatus, hacc, Status.accepted, hph']
    busyClean := fun _ => hstatus.trans hacc
    codeLegal := hstatus ▸ h.codeLegal
    matchLenIn := hlen ▸ h.matchLenIn
    decoderIn := by rw [hdec]; exact h.decoderIn
    run := hrun }

omit h in
/-- A block's part of the invariant before slot `i`, or before the flush after the eighth. -/
theorem runInv_of_slotBound {P : Preset} {i : Nat} (room : EncodeRoom P t) (hb : SlotBound P t i)
    (hflag : t.flagPtr.toNat < t.outLen.toNat)
    (hplace : (t.phase = .encChunk ∧ t.chunkIdx.val = i) ∨ (t.phase = .encFlush ∧ i = 8)) : t.RunInv := by
  unfold State.RunInv
  obtain ⟨hph, rfl⟩ | ⟨hph, rfl⟩ := hplace <;> rw [hph]
  · exact ⟨P, room, hb, hflag⟩
  · exact ⟨P, room, hb.boundary, hflag⟩

omit h in
theorem ne_idle_of_place {i : Nat}
    (hplace : (t.phase = .encChunk ∧ t.chunkIdx.val = i) ∨ (t.phase = .encFlush ∧ i = 8)) : t.phase ≠ .idle := by
  obtain ⟨hph, -⟩ | ⟨hph, -⟩ := hplace <;> simp [hph]

omit h in
/-- The bound before a block's first slot (R183). -/
theorem SlotBound.of_blockStarted {P : Preset} (hb : BoundaryBound P s) (hc : s.cursor.toNat < s.srcLen.toNat)
    (ht : BlockStarted s t) : SlotBound P t 0 := by
  have hcur : t.cursor = s.cursor := by rw [ht.frame]
  rw [BoundaryBound, if_pos hc] at hb
  rw [SlotBound, ht.encodeFrame.srcLen, hcur, if_pos hc, ht.outLen]
  omega

/-- The engine's step keeps the invariant. -/
theorem State.Inv.engineMove_keeps (hmove : Machine.engineMove s = .ok t) : t.Inv := by
  cases h.engineMoved hmove with
  | idle phase next => exact next ▸ h
  | find P r phase search next =>
    obtain ⟨hP, -, -, rfl⟩ := searchAtCursor_ok search
    obtain ⟨kind, rfl⟩ := exists_kind_of_presetOf hP
    obtain ⟨hmax, -⟩ := preset_limits kind
    obtain ⟨-, hcap, -⟩ := findLongestMatch_record s.imemByte kind.preset s.srcLen.toNat s.cursor.toNat
    have hlen : (findLongestMatch s.imemByte kind.preset s.srcLen.toNat s.cursor.toNat).recLen ≤ 18 :=
      (hcap.trans (min_le_left _ _)).trans hmax.le
    rw [next]
    refine State.Inv.complete { h with matchLenIn := ?_, run := h.run.of_frame rfl }
    exact (Nat.mod_le _ _).trans hlen
  | finish phase next => exact next ▸ h.complete
  | block P phase room bound more next =>
    have hph : t.phase = .encChunk := by rw [next.frame]
    refine h.of_encodeFrame hmove next.encodeFrame (by simp [phase]) (by simp [hph]) ?_
    refine runInv_of_slotBound (room.after_blockStart next) (SlotBound.of_blockStarted bound more next) ?_
      (.inl ⟨hph, by rw [next.frame]; rfl⟩)
    have hptr : t.flagPtr = s.outLen := by rw [next.frame]
    rw [hptr, next.outLen]
    exact Nat.lt_succ_self _
  | chunk P c bs acc phase room bound flagIn more used short rest next =>
    have hplace := next.index.place
    have hptr : t.flagPtr = s.flagPtr := by rw [next.frame]
    refine h.of_encodeFrame hmove next.encodeFrame (by simp [phase]) (ne_idle_of_place hplace) ?_
    refine runInv_of_slotBound (room.after_chunk next rest) (SlotBound.after_chunk bound next more used short rest) ?_
      hplace
    rw [hptr, next.outLen]
    exact Nat.lt_add_right _ flagIn
  | filler P phase room bound flagIn exhausted next =>
    have hplace := next.index.place
    have hptr : t.flagPtr = s.flagPtr := by rw [next.frame]
    refine h.of_encodeFrame hmove next.encodeFrame (by simp [phase]) (ne_idle_of_place hplace) ?_
    refine runInv_of_slotBound (room.after_exhausted next) (SlotBound.after_exhausted bound next exhausted) ?_ hplace
    rw [hptr, next.outLen]
    exact Nat.lt_add_right _ flagIn
  | flush P phase room bound flagIn next =>
    have hph : t.phase = .encBlock := by rw [next.frame]
    have hrun : t.RunInv := by
      unfold State.RunInv
      rw [hph]
      exact ⟨P, room.after_flush next, by rw [next.frame]; exact bound⟩
    exact h.of_encodeFrame hmove next.encodeFrame (by simp [phase]) (by simp [hph]) hrun

end

/-- Settles O3: an idle engine with empty memories and no decoder. -/
theorem resetMeetsInvariant : Obligations.ResetMeetsInvariant where
  params := by decide
  imemWf := List.Pairwise.nil
  omemWf := List.Pairwise.nil
  imemIn := nofun
  omemIn := nofun
  busyPhase := by decide
  busyClean := nofun
  codeLegal := by decide
  matchLenIn := by decide
  decoderIn := by decide
  run := trivial

/-- Settles O4: each agent's move keeps the invariant, which does not read the turns or the host's side. -/
theorem stepKeepsInvariant : Obligations.StepKeepsInvariant := by
  intro s t hinv hstep
  have hside (ts : List Agent) (ops : List HostOp) : ((s.setTurns ts).setHostOps ops).Inv := hinv.of_hostSide rfl
  have hturn : (s.setTurns s.turns.tail).Inv := hinv.of_hostSide rfl
  obtain rfl | ⟨_, ops, mode, ie, -, rfl | rfl⟩ | ⟨op, ops, -, hop⟩ | hengine | rfl := step_next_cases hstep
  · exact hturn
  · exact (hside _ ops).startCommand _ mode ie
  · exact (hside _ ops).startCommand _ mode ie
  · exact (hside _ ops).hostStep hop
  · exact hturn.engineMove_keeps (engineStep_next_iff.1 hengine)
  · have hext := s.decoder.extends_step s.params.imageClamp
    exact hturn.setDecoder (by rw [hext.expect]; exact hext.outIn.trans (max_le hinv.decoderIn (le_refl _)))

end Sys2Proof.Machine

/-! # 41_greedy_encoder.md: the counters at the end of EncodeAll (R182, R183) -/

namespace Sys2Proof.Machine

/-! ## What a chunk does to the trace (R177) -/

section
variable (e : EncodeVars) (P : Preset) (c : Nat) (bs : List Byte) (f : Byte)

@[simp] theorem EncodeVars.trace_fillers : e.trace.fillers = e.fillers := by unfold trace; split <;> rfl
@[simp] theorem EncodeVars.chunk_fillers : (e.chunk c bs f).fillers = e.fillers := by simp [chunk]

/-- A chunk makes its own end the peak, with nothing counted since, or it counts on from the old peak. -/
theorem EncodeVars.chunk_trace :
    (e.best + (e.out.length + bs.length) < e.cur + c ∧ (e.chunk c bs f).peak = e.cur + c ∧
      (e.chunk c bs f).best + (e.out.length + bs.length) = e.cur + c ∧
      (e.chunk c bs f).spDec = 0 ∧ (e.chunk c bs f).spEnc = 0) ∨
    ((e.chunk c bs f).peak = e.peak ∧ (e.chunk c bs f).best = e.best ∧
      (e.chunk c bs f).spDec = e.spDec + c ∧ (e.chunk c bs f).spEnc = e.spEnc + bs.length) := by
  unfold chunk trace
  simp only [newPeak, savings, List.length_append, decide_eq_true_eq]
  split_ifs with hnew
  · exact .inl ⟨by omega, rfl, by simp only; omega, rfl, rfl⟩
  · exact .inr ⟨rfl, rfl, rfl, rfl⟩

/-- A slot is a chunk, not longer than the input it uses, or it comes after the input (R173 to R176). -/
theorem encodeSlot_chunk_or_fill (rd : Nat → Byte) (n i : Nat) :
    (e.cur < n ∧ ∃ c bs f, 1 ≤ c ∧ bs.length ≤ c ∧ c ≤ n - e.cur ∧ encodeSlot rd P n i e = e.chunk c bs f) ∨
      (n ≤ e.cur ∧ encodeSlot rd P n i e = e.fill P) := by
  obtain ⟨hc, hl, h⟩ | ⟨hc, -, h⟩ | ⟨hc, h⟩ := encodeSlot_cases rd P n i e
  · exact .inl ⟨hc, _, _, _, by omega, hl.le, recLen_le_rest, h⟩
  · exact .inl ⟨hc, 1, _, _, le_refl 1, le_refl 1, by omega, h⟩
  · exact .inr ⟨hc, h⟩

end

/-! ## Induction over a run -/

section
variable {rd : Nat → Byte} {P : Preset} {n : Nat} {Q : Nat → EncodeVars → Prop}

theorem encodeSlots_induct (slot : ∀ i e, i < 8 → Q i e → Q (i + 1) (encodeSlot rd P n i e)) :
    ∀ (left i : Nat) (e : EncodeVars), i + left = 8 → Q i e → Q 8 (encodeSlots rd P n left i e)
  | 0, i, e, hi, h => by
    obtain rfl : i = 8 := hi
    exact h
  | k + 1, i, e, hi, h => encodeSlots_induct slot k (i + 1) _ (by omega) (slot i e (by omega) h)

theorem encodeBlocks_induct (start : ∀ e, e.cur < n → Q 8 e → Q 0 e.startBlock)
    (slot : ∀ i e, i < 8 → Q i e → Q (i + 1) (encodeSlot rd P n i e))
    (flush : ∀ fp e, Q 8 e → Q 8 (e.flush fp)) :
    ∀ (fuel : Nat) (e : EncodeVars), Q 8 e → Q 8 (encodeBlocks rd P n fuel e)
  | 0, _, h => h
  | k + 1, e, h => by
    unfold encodeBlocks
    split_ifs with hc
    · rw [encodeBlock_eq]
      exact encodeBlocks_induct start slot flush k _
        (flush _ _ (encodeSlots_induct slot 8 0 _ rfl (start e hc h)))
    · exact h

end

/-! ## What every slot keeps -/

/-- The counters before slot `i` of a block, or between blocks if `i` is 8: the since-peak counters measure what
follows the peak (R182), every block but the last has used eight bytes, and fillers come only after the input
(R183). -/
structure EncodeVars.Counted (P : Preset) (n i : Nat) (e : EncodeVars) : Prop where
  curIn   : e.cur ≤ n
  bestIn  : e.best ≤ e.peak
  dec     : e.spDec + e.peak = e.cur
  enc     : e.spEnc + (e.peak - e.best) + e.fillers = e.out.length
  outIn   : e.out.length ≤ e.cur + e.blocks + e.fillers
  running : e.cur < n → e.fillers = 0 ∧ 8 * e.blocks + i ≤ e.cur + 8
  ended   : n ≤ e.cur → 1 ≤ i ∧ 8 * e.blocks ≤ n + 7 ∧ e.fillers ≤ if P.zeroFill then i - 1 else 0

section
variable {rd : Nat → Byte} {P : Preset} {n i : Nat} {e : EncodeVars}

theorem EncodeVars.counted_init : EncodeVars.init.Counted P n 8 :=
  ⟨Nat.zero_le n, le_refl 0, rfl, rfl, le_refl 0, fun _ => ⟨rfl, le_refl 8⟩,
    fun _ => ⟨by omega, Nat.zero_le _, Nat.zero_le _⟩⟩

theorem EncodeVars.Counted.startBlock (h : e.Counted P n 8) (hc : e.cur < n) : e.startBlock.Counted P n 0 := by
  obtain ⟨hcur, hbest, hdec, henc, hout, hrun, -⟩ := h
  obtain ⟨hfill, hblocks⟩ := hrun hc
  exact {
    curIn := hcur
    bestIn := hbest
    dec := hdec
    enc := by simp only [EncodeVars.startBlock, List.length_append, List.length_singleton]; omega
    outIn := by simp only [EncodeVars.startBlock, List.length_append, List.length_singleton]; omega
    running := fun _ => ⟨hfill, by simp only [EncodeVars.startBlock]; omega⟩
    ended := fun hn => absurd hc (not_lt.2 hn) }

theorem EncodeVars.Counted.flush (h : e.Counted P n 8) (fp : Nat) : (e.flush fp).Counted P n 8 :=
  { h with
    enc := by simpa [EncodeVars.flush] using h.enc
    outIn := by simpa [EncodeVars.flush] using h.outIn }

theorem EncodeVars.Counted.chunk (h : e.Counted P n i) (hc : e.cur < n) {c : Nat} {bs : List Byte} {f : Byte}
    (hpos : 1 ≤ c) (hlen : bs.length ≤ c) (hrest : c ≤ n - e.cur) : (e.chunk c bs f).Counted P n (i + 1) := by
  obtain ⟨hcur, hbest, hdec, henc, hout, hrun, -⟩ := h
  obtain ⟨hfill, hblocks⟩ := hrun hc
  have htrace := e.chunk_trace c bs f
  exact {
    curIn := by rw [chunk_cur]; omega
    bestIn := by omega
    dec := by rw [chunk_cur]; omega
    enc := by rw [chunk_fillers, chunk_out, List.length_append]; omega
    outIn := by rw [chunk_out, chunk_cur, chunk_blocks, chunk_fillers, List.length_append]; omega
    running := fun _ => ⟨by rw [chunk_fillers, hfill], by rw [chunk_blocks, chunk_cur]; omega⟩
    ended := fun _ => ⟨by omega, by rw [chunk_blocks]; omega, by rw [chunk_fillers, hfill]; exact Nat.zero_le _⟩ }

theorem EncodeVars.Counted.fill (h : e.Counted P n i) (hc : n ≤ e.cur) : (e.fill P).Counted P n (i + 1) := by
  obtain ⟨hcur, hbest, hdec, henc, hout, -, hend⟩ := h
  obtain ⟨hi, hblocks, hfill⟩ := hend hc
  have hfillers : e.fillers + (fillerBytes P).length ≤ if P.zeroFill then i else 0 := by
    unfold fillerBytes
    split_ifs at hfill ⊢ <;> simp only [List.length_singleton, List.length_nil] <;> omega
  exact {
    curIn := hcur
    bestIn := hbest
    dec := hdec
    enc := by simp only [EncodeVars.fill, List.length_append]; omega
    outIn := by simp only [EncodeVars.fill, List.length_append]; omega
    running := fun hlt => absurd hlt (not_lt.2 hc)
    ended := fun _ => ⟨by omega, hblocks, hfillers⟩ }

theorem EncodeVars.Counted.slot (h : e.Counted P n i) : (encodeSlot rd P n i e).Counted P n (i + 1) := by
  obtain ⟨hc, c, bs, f, hpos, hlen, hrest, heq⟩ | ⟨hc, heq⟩ := encodeSlot_chunk_or_fill e P rd n i <;> rw [heq]
  · exact h.chunk hc hpos hlen hrest
  · exact h.fill hc

theorem encodeAll_counted (rd : Nat → Byte) (P : Preset) (n : Nat) : (encodeAll rd P n).Counted P n 8 :=
  encodeBlocks_induct (Q := fun i e => e.Counted P n i) (fun _ hc h => h.startBlock hc) (fun _ _ _ h => h.slot)
    (fun fp _ h => h.flush fp) n _ EncodeVars.counted_init

/-- Fillers complete the last block of a stream with zeroFill (R183). -/
theorem encodeAll_fillers_le (rd : Nat → Byte) (P : Preset) (n : Nat) :
    (encodeAll rd P n).fillers ≤ if P.zeroFill then 7 else 0 :=
  ((encodeAll_counted rd P n).ended (encodeAll_cur rd P n).ge).2.2

end

/-- Settles O40: the counters that every slot keeps, at the end of the run. -/
theorem encodeOutputIsBounded : Obligations.EncodeOutputIsBounded := by
  intro rd kind n
  dsimp only
  have hcur := encodeAll_cur rd kind.preset n
  have hfill := encodeAll_fillers_le rd kind.preset n
  obtain ⟨-, hbest, hdec, -, hout, -, hend⟩ := encodeAll_counted rd kind.preset n
  obtain ⟨-, hblocks, -⟩ := hend hcur.ge
  omega

/-- Settles O41: the since-peak counters that every slot keeps, and zeroFill's fillers. -/
theorem sincePeakCountersMeasureTheTail : Obligations.SincePeakCountersMeasureTheTail := by
  intro rd kind n
  dsimp only
  have hcur := encodeAll_cur rd kind.preset n
  have hfill := encodeAll_fillers_le rd kind.preset n
  obtain ⟨-, hbest, hdec, henc, -⟩ := encodeAll_counted rd kind.preset n
  refine ⟨by omega, hbest, henc, ?_, hfill.trans (by split_ifs <;> omega)⟩
  rintro rfl
  exact Nat.le_zero.1 hfill

end Sys2Proof.Machine

/-! # 45_host_framing.md R245: the stream cut at the savings peak decodes to the input up to the peak -/

namespace Sys2Proof.Machine

/-! ## A decoder does not see what it has not read -/

/-- The same decoder on the first `l` bytes of its stream, with `m` bytes of output to come to. -/
def Decoder.cut (l m : Nat) (d : Decoder) : Decoder where
  kind := d.kind
  stream := d.stream.take l
  idx := d.idx
  out := d.out
  expect := m
  phase := if m ≤ d.out.length then .done else d.phase

/-- A copy that ends within the smaller length is the same copy (R212). -/
theorem copyBytes_of_smaller_expect {expect m dist : Nat} (hm : m ≤ expect) : ∀ (k : Nat) (out : List Byte),
    (copyBytes expect dist k out).length ≤ m → copyBytes m dist k out = copyBytes expect dist k out
  | 0, _, _ => rfl
  | k + 1, out, h => by
    obtain hlt | hfull := Nat.lt_or_ge out.length m
    · simp only [copyBytes, if_neg (not_le.2 hlt), if_neg (not_le.2 (hlt.trans_le hm))] at h ⊢
      cases hx : out[out.length - dist]? with
      | none => rfl
      | some b =>
        simp only [hx] at h ⊢
        exact copyBytes_of_smaller_expect hm k _ h
    · rw [copyBytes_full hfull]
      exact (copyBytes_prefix expect dist (k + 1) out).eq_of_length_le (h.trans hfull)

section
variable {clamp : ClampMode} {l m : Nat} {d : Decoder} (hlt : d.out.length < m) (hm : m ≤ d.expect)

/-- All of a chunk's effect. -/
theorem Decoder.chunk_eq (d : Decoder) (n : Nat) (new : List Byte) : d.chunk n new =
    { kind := d.kind, stream := d.stream, idx := d.idx + n, out := new, expect := d.expect,
      phase := if d.expect ≤ new.length then .done else d.nextSlot.phase } := by
  have hphase : (d.chunk n new).phase = if d.expect ≤ new.length then .done else d.nextSlot.phase := by
    split_ifs with hfull
    · exact chunk_phase_of_full hfull
    · exact chunk_phase_of_lt (not_le.1 hfull)
  have heta : d.chunk n new = ⟨(d.chunk n new).kind, (d.chunk n new).stream, (d.chunk n new).idx, (d.chunk n new).out,
      (d.chunk n new).expect, (d.chunk n new).phase⟩ := rfl
  rw [heta, chunk_kind, chunk_stream, chunk_idx, chunk_out, chunk_expect, hphase]

include hlt in
theorem Decoder.cut_phase : (d.cut l m).phase = d.phase := if_neg (not_le.2 hlt)

include hlt in
theorem Decoder.cut_place : (d.cut l m).place = d.place := by
  unfold Decoder.place
  rw [cut_phase hlt]
  rfl

include hlt hm

theorem Decoder.chunk_cut (n : Nat) (new : List Byte) :
    (d.cut l m).chunk n new = (d.chunk n new).cut l m := by
  have hnext : (d.cut l m).nextSlot.phase = d.nextSlot.phase := nextSlot_phase_congr (cut_phase hlt)
  obtain hlt' | hfull := Nat.lt_or_ge new.length m
  · simp only [chunk_eq, cut, if_neg (not_le.2 hlt'), if_neg (not_le.2 (hlt'.trans_le hm))]
    exact congrArg _ hnext
  · simp only [chunk_eq, cut, if_pos hfull]

theorem Decoder.copyRef_cut (len : Nat) (dist : Except DecodeError Nat) (hout : (d.copyRef len dist).out.length ≤ m) :
    (d.cut l m).copyRef len dist = (d.copyRef len dist).cut l m := by
  cases dist with
  | error e => simp [copyRef, cut, fail, skip, not_le.2 hlt]
  | ok k =>
    rw [copyRef_ok, chunk_out] at hout
    rw [copyRef_ok, copyRef_ok, ← chunk_cut hlt hm]
    exact congrArg (fun new => (d.cut l m).chunk 2 new) (copyBytes_of_smaller_expect hm len d.out hout)

theorem Decoder.item_cut {i : Instr} (hi : Instr.inStream i = true) (hout : (d.item clamp i).out.length ≤ m) :
    (d.cut l m).item clamp i = (d.item clamp i).cut l m := by
  have hcut : (d.cut l m).out.length < (d.cut l m).expect := hlt
  have hd := hlt.trans_le hm
  cases i with
  | flag f =>
    rw [item, item, flag_of_lt hcut, flag_of_lt hd]
    simp [cut, skip, not_le.2 hlt]
  | lit b =>
    have heq : d.item clamp (.lit b) = d.chunk 1 (d.out ++ [b]) := lit_of_lt hd b
    rw [heq, item, lit_of_lt hcut]
    exact chunk_cut hlt hm 1 _
  | refB len dist =>
    have heq : d.item clamp (.refB len dist) = d.copyRef len (refBDistance d.out.length dist) := refB_of_lt hd len dist
    rw [heq] at hout ⊢
    rw [item, refB_of_lt hcut]
    exact copyRef_cut hlt hm len _ hout
  | refI len dist =>
    have heq : d.item clamp (.refI len dist) = d.copyRef len (refIDistance clamp d.out.length dist) :=
      refI_of_lt hd clamp len dist
    rw [heq] at hout ⊢
    rw [item, refI_of_lt hcut]
    exact copyRef_cut hlt hm len _ hout
  | find | encode => simp [Instr.inStream] at hi

end

/-- What does not decode does not decode when cut short. -/
theorem decode_take_error {place : DecodePlace} {bytes : List Byte} {e : Reject}
    (h : decode place (.stream bytes) = .error e) (j : Nat) :
    ∃ e', decode place (.stream (bytes.take j)) = .error e' := by
  cases hd : decode place (.stream (bytes.take j)) with
  | error e' => exact ⟨e', rfl⟩
  | ok x =>
    obtain ⟨hbytes, -, hany⟩ := decode_stream_ok (i := x.1) (rest := x.2) hd
    rw [← List.take_append_drop j bytes, hbytes, List.append_assoc, hany] at h
    cases h

/-- An item whose bytes are within the cut decodes the same. -/
theorem decode_take_ok {place : DecodePlace} {bytes rest : List Byte} {i : Instr}
    (h : decode place (.stream bytes) = .ok (i, rest)) {j : Nat} (hj : i.bytes.length ≤ j) :
    ∃ rest', decode place (.stream (bytes.take j)) = .ok (i, rest') := by
  obtain ⟨rfl, -, hany⟩ := decode_stream_ok h
  exact ⟨_, by rw [List.take_append, List.take_of_length_le hj, hany]⟩

section
variable {clamp : ClampMode} {l m : Nat}

/-- A step that reads and writes within the cut is the same step of the cut decoder. -/
theorem Decoder.step_cut {d : Decoder} (hlt : d.out.length < m) (hm : m ≤ d.expect) (hidx : (d.step clamp).idx ≤ l)
    (hout : (d.step clamp).out.length ≤ m) : (d.cut l m).step clamp = (d.step clamp).cut l m := by
  have hcut : (d.cut l m).out.length < (d.cut l m).expect := hlt
  have hstream : (d.cut l m).stream.drop (d.cut l m).idx = (d.stream.drop d.idx).take (l - d.idx) := List.drop_take
  obtain ⟨hp, hs⟩ | ⟨hfull, -⟩ | ⟨-, place, e, hp, hd, hs⟩ | ⟨hlt', place, i, rest, hp, hd, hs⟩ := d.step_cases clamp
  · have hstop := run_of_stopped clamp ((cut_place (l := l) hlt).trans hp) 1
    rw [hs]
    exact hstop
  · omega
  · obtain ⟨e', hd'⟩ := decode_take_error hd (l - d.idx)
    rw [step_of_decode_error hcut ((cut_place hlt).trans hp) (by rw [hstream]; exact hd'), hs]
    simp [cut, fail, not_le.2 hlt]
  · have hi := decode_inStream hd
    rw [hs, item_idx hi hlt'] at hidx
    rw [hs] at hout ⊢
    obtain ⟨rest', hd'⟩ := decode_take_ok hd (j := l - d.idx) (by omega)
    rw [step_of_decode_ok hcut ((cut_place hlt).trans hp) (by rw [hstream]; exact hd'), item_cut hlt hm hi hout]

theorem Decoder.idx_le_step (clamp : ClampMode) (d : Decoder) : d.idx ≤ (d.step clamp).idx := by
  obtain ⟨-, hs⟩ | ⟨-, hs⟩ | ⟨-, _, _, -, -, hs⟩ | ⟨hlt, _, i, _, -, hd, hs⟩ := d.step_cases clamp
  · exact (congrArg Decoder.idx hs).ge
  · exact (congrArg Decoder.idx hs).ge
  · exact (congrArg Decoder.idx hs).ge
  · rw [hs, item_idx (decode_inStream hd) hlt]
    exact Nat.le_add_right _ _

/-- A run reads on in its stream and appends to its output. -/
theorem Decoder.run_grows (clamp : ClampMode) : ∀ (k : Nat) (d : Decoder),
    d.idx ≤ (Decoder.run clamp k d).idx ∧ d.out <+: (Decoder.run clamp k d).out
  | 0, d => ⟨le_refl _, List.prefix_refl _⟩
  | k + 1, d => by
    obtain ⟨hidx, hout⟩ := Decoder.run_grows clamp k (d.step clamp)
    exact ⟨(d.idx_le_step clamp).trans hidx, (d.extends_step clamp).out.trans hout⟩

/-- A run that comes to `m` bytes of output within the first `l` bytes of its stream comes to the same output
when it is cut to them. -/
theorem Decoder.run_cut : ∀ (k : Nat) {d : Decoder}, d.out.length ≤ m → m ≤ d.expect →
    (Decoder.run clamp k d).idx ≤ l → (Decoder.run clamp k d).out.length = m →
    (Decoder.run clamp k (d.cut l m)).phase = .done ∧
      (Decoder.run clamp k (d.cut l m)).out = (Decoder.run clamp k d).out
  | 0, d, _, _, _, hlen => ⟨if_pos hlen.ge, rfl⟩
  | k + 1, d, hle, hm, hidx, hlen => by
    obtain hlt | hfull := Nat.lt_or_ge d.out.length m
    · obtain ⟨hidx', hout'⟩ := Decoder.run_grows clamp k (d.step clamp)
      have hout : (d.step clamp).out.length ≤ m := hlen ▸ hout'.length_le
      have hrun := Decoder.run_cut k hout ((d.extends_step clamp).expect.symm ▸ hm) hidx hlen
      rwa [← step_cut hlt hm (hidx'.trans hidx) hout] at hrun
    · have hdone : (d.cut l m).phase = .done := if_pos hfull
      rw [run_done clamp hdone]
      obtain ⟨-, hout⟩ := Decoder.run_grows clamp (k + 1) d
      exact ⟨hdone, hout.eq_of_length_le (hlen.le.trans hfull)⟩

/-- A decoder that is done after some number of steps gives the decoder's answer. -/
theorem decodeStream_of_run_done {kind : StreamKind} {S : List Byte} {n k : Nat}
    (h : (Decoder.run clamp k (Decoder.start kind S n)).phase = .done) :
    decodeStream kind clamp S n = .ok (Decoder.run clamp k (Decoder.start kind S n)).out := by
  have hstop : (Decoder.run clamp (S.length + 1) (Decoder.start kind S n)).place = none :=
    Decoder.run_stops clamp _ (Nat.zero_le _) (by simp [Decoder.start])
  have hsame : Decoder.run clamp (S.length + 1) (Decoder.start kind S n) =
      Decoder.run clamp k (Decoder.start kind S n) := by
    obtain hle | hle := Nat.le_total k (S.length + 1)
    · rw [← Nat.add_sub_cancel' hle, Decoder.run_add, Decoder.run_done clamp h]
    · rw [← Nat.add_sub_cancel' hle, Decoder.run_add clamp _ (S.length + 1), Decoder.run_of_stopped clamp hstop]
  rw [decodeStream, hsame, Decoder.result, h]

/-- With no output to come to, a decoder stops at once (R215). -/
theorem decodeStream_zero (clamp : ClampMode) (kind : StreamKind) (S : List Byte) :
    decodeStream kind clamp S 0 = .ok [] := by
  have hrun : Decoder.run clamp 1 (Decoder.start kind S 0) = (Decoder.start kind S 0).finish := by
    rw [Decoder.run, Decoder.run]
    exact Decoder.step_of_full rfl (le_refl 0)
  rw [decodeStream_of_run_done (k := 1) (by rw [hrun]; rfl), hrun]
  rfl

/-- A decoder that reaches `d` answers the output of `d` on the part of the stream that it has read. -/
theorem decodeStream_take_of_reaches {kind : StreamKind} {S : List Byte} {n : Nat} {d : Decoder}
    (h : Decoder.Reaches clamp (Decoder.start kind S n) d) (hidx : d.idx ≤ l) (hn : d.out.length ≤ n) :
    decodeStream kind clamp (S.take l) d.out.length = .ok d.out := by
  obtain ⟨k, -, rfl⟩ := h
  obtain ⟨hdone, hout⟩ := Decoder.run_cut (l := l) k (Nat.zero_le _) hn hidx rfl
  generalize (Decoder.run clamp k (Decoder.start kind S n)).out = out at *
  obtain hzero | hpos := Nat.eq_zero_or_pos out.length
  · obtain rfl := List.length_eq_zero_iff.1 hzero
    exact decodeStream_zero clamp kind _
  · have hstart : (Decoder.start kind S n).cut l out.length = Decoder.start kind (S.take l) out.length := by
      simp [Decoder.cut, Decoder.start, hpos.ne']
    rw [hstart] at hdone hout
    rw [decodeStream_of_run_done hdone, hout]

end

/-! ## The decoder comes to the peak -/

section
variable {clamp : ClampMode} {kind : StreamKind} {S : List Byte} {rd : Nat → Byte} {n : Nat}

/-- The decoder of `S` comes to the input up to the savings peak, having read no more than the stream had there. -/
def DecodesPeak (clamp : ClampMode) (kind : StreamKind) (S : List Byte) (rd : Nat → Byte) (n : Nat) (e : EncodeVars) :
    Prop :=
  ∃ j ph, j ≤ e.peak - e.best ∧
    Decoder.Reaches clamp (Decoder.start kind S n) (decoderAt rd kind S n e.peak j ph)

/-- A slot that ends at a new peak is decoded there, and any other keeps the peak. -/
theorem DecodesPeak.slot {i : Nat} {e : EncodeVars} {ph : DecoderPhase} (h : DecodesPeak clamp kind S rd n e)
    (hslot : DecodesTo clamp kind S rd n (encodeSlot rd kind.preset n i e) ph) :
    DecodesPeak clamp kind S rd n (encodeSlot rd kind.preset n i e) := by
  obtain ⟨-, c, bs, f, -, -, -, heq⟩ | ⟨-, heq⟩ := encodeSlot_chunk_or_fill e kind.preset rd n i <;> rw [heq] at hslot ⊢
  · obtain ⟨-, hpeak, hbest, -⟩ | ⟨hpeak, hbest, -⟩ := e.chunk_trace c bs f
    · obtain ⟨j, hj, -, hreach⟩ := hslot
      rw [EncodeVars.chunk_out, List.length_append] at hj
      rw [EncodeVars.chunk_cur, ← hpeak] at hreach
      exact ⟨j, ph, by omega, hreach⟩
    · rwa [DecodesPeak, hpeak, hbest]
  · exact h

theorem DecodesPeak.slots : ∀ (left i : Nat) {e : EncodeVars}, i + left = 8 → DecodesPeak clamp kind S rd n e →
    DecodesTo clamp kind S rd n e (slotPhase (encodeSlots rd kind.preset n left i e).flags i) →
    (∀ j, i ≤ j → j < 8 → e.flags.getLsbD (7 - j) = false) →
    (encodeSlots rd kind.preset n left i e).out.drop e.out.length <+: S.drop e.out.length →
    DecodesPeak clamp kind S rd n (encodeSlots rd kind.preset n left i e)
  | 0, _, _, _, hpeak, _, _, _ => hpeak
  | k + 1, i, e, hi, hpeak, h, hclear, hS => by
    have hpre := encodeSlot_prefix rd kind.preset n i e
    have hpre' := encodeSlots_prefix rd kind.preset n k (i + 1) (encodeSlot rd kind.preset n i e)
    have hslot := h.slot (by omega) (hclear i (le_refl i) (by omega))
      (encodeSlots_flag_earlier k (i + 1) _ (by omega) (by omega)) ((hpre'.drop _).trans hS)
    refine DecodesPeak.slots k (i + 1) (by omega) (hpeak.slot hslot) hslot (fun j hj hj8 => ?_) ?_
    · rw [encodeSlot_flag_other (by omega) hj8 (by omega)]
      exact hclear j (by omega) hj8
    · have hdrop := hS.drop ((encodeSlot rd kind.preset n i e).out.length - e.out.length)
      rwa [List.drop_drop, List.drop_drop, Nat.add_sub_cancel' hpre.length_le] at hdrop

/-- A block opens with the flag byte that its slots end with, and its chunks follow. -/
theorem DecodesTo.startBlock {e : EncodeVars} (h : DecodesTo clamp kind S rd n e .blockStart) (hc : e.cur < n)
    (hS : (encodeBlock rd kind.preset n e).out <+: S) :
    DecodesTo clamp kind S rd n e.startBlock (slotPhase (encodeSlots rd kind.preset n 8 0 e.startBlock).flags 0) ∧
      (encodeSlots rd kind.preset n 8 0 e.startBlock).out.drop e.startBlock.out.length <+:
        S.drop e.startBlock.out.length := by
  have hlen := (encodeSlots_prefix rd kind.preset n 8 0 e.startBlock).length_le
  rw [encodeBlock_eq] at hS
  generalize encodeSlots rd kind.preset n 8 0 e.startBlock = e' at hS hlen ⊢
  have hopen : e.startBlock.out.length = e.out.length + 1 := by simp [EncodeVars.startBlock]
  have hdrop := hS.drop e.out.length
  rw [EncodeVars.flush, List.drop_eq_getElem_cons (by simp; omega), List.getElem_set_self,
    List.drop_set_of_lt (by omega)] at hdrop
  obtain ⟨rest, hrest⟩ := hdrop
  refine ⟨h.step hc ?_ (by omega), ?_⟩
  · rw [hopen, decoderAt_step_flag hc hrest.symm]
    rfl
  · have htail : S.drop (e.out.length + 1) = e'.out.drop (e.out.length + 1) ++ rest := by
      rw [← List.drop_drop, ← hrest]
      rfl
    rw [hopen, htail]
    exact List.prefix_append _ rest

theorem DecodesPeak.block {e : EncodeVars} (hpeak : DecodesPeak clamp kind S rd n e)
    (h : DecodesTo clamp kind S rd n e .blockStart) (hc : e.cur < n)
    (hS : (encodeBlock rd kind.preset n e).out <+: S) :
    DecodesPeak clamp kind S rd n (encodeBlock rd kind.preset n e) := by
  obtain ⟨hstart, htail⟩ := h.startBlock hc hS
  exact DecodesPeak.slots 8 0 (e := e.startBlock) rfl hpeak hstart (fun j _ _ => by simp [EncodeVars.startBlock]) htail

theorem DecodesPeak.blocks : ∀ (fuel : Nat) {e : EncodeVars}, DecodesPeak clamp kind S rd n e →
    DecodesTo clamp kind S rd n e .blockStart → (encodeBlocks rd kind.preset n fuel e).out <+: S →
    DecodesPeak clamp kind S rd n (encodeBlocks rd kind.preset n fuel e)
  | 0, _, hpeak, _, _ => hpeak
  | k + 1, e, hpeak, h, hS => by
    unfold encodeBlocks at hS ⊢
    split_ifs at hS ⊢ with hc
    · have hblock := (encodeBlocks_prefix rd kind.preset n k _).trans hS
      exact (hpeak.block h hc hblock).blocks k (h.block hc hblock) hS
    · exact hpeak

end

/-- The stream up to the savings peak decodes to the input up to the peak, for both kinds of stream (R245). -/
theorem decodeStream_encodeAll_peak (rd : Nat → Byte) (kind : StreamKind) (clamp : ClampMode) (n : Nat) :
    let e := encodeAll rd kind.preset n
    decodeStream kind clamp (e.out.take (e.peak - e.best)) e.peak = .ok (inputPrefix rd e.peak) := by
  intro e
  have hcur : e.cur = n := encodeAll_cur rd kind.preset n
  have hcounted : e.Counted kind.preset n 8 := encodeAll_counted rd kind.preset n
  obtain rfl | hn := Nat.eq_zero_or_pos n
  · exact decodeStream_zero clamp kind _
  have hinit : Decoder.Reaches clamp (Decoder.start kind e.out n) (decoderAt rd kind e.out n 0 0 .blockStart) :=
    ⟨0, le_refl 0, (decoderAt_start hn).symm⟩
  have hstart : DecodesTo clamp kind e.out rd n EncodeVars.init .blockStart := ⟨0, le_refl 0, fun _ => rfl, hinit⟩
  have hpeak : DecodesPeak clamp kind e.out rd n EncodeVars.init := ⟨0, .blockStart, le_refl 0, hinit⟩
  have hend : DecodesPeak clamp kind e.out rd n e := hpeak.blocks n hstart (List.prefix_refl _)
  obtain ⟨j, ph, hj, hreach⟩ := hend
  have hlen : (decoderAt rd kind e.out n e.peak j ph).out.length = e.peak := inputPrefix_length rd e.peak
  have hpeakIn : e.peak ≤ n := by
    have hdec := hcounted.dec
    omega
  have hcut := decodeStream_take_of_reaches hreach hj (hlen.le.trans hpeakIn)
  rwa [hlen] at hcut

/-- Settles O42: SP_ENC and SP_DEC measure what follows the peak, and IMAGE has no fillers. -/
theorem trimmedImageStreamDecodesToThePeak : Obligations.TrimmedImageStreamDecodesToThePeak := by
  intro rd clamp n
  dsimp only
  obtain ⟨hdec, hbest, henc, himage, -⟩ := sincePeakCountersMeasureTheTail rd .image n
  have hcur := (encodeAll_counted rd Preset.image n).dec
  have hfill := himage rfl
  have hpeak := decodeStream_encodeAll_peak rd .image clamp n
  simp only [StreamKind.preset] at hdec hbest henc hfill hpeak
  rw [encodeAll_cur] at hcur
  rwa [show (encodeAll rd Preset.image n).out.length - (encodeAll rd Preset.image n).spEnc =
      (encodeAll rd Preset.image n).peak - (encodeAll rd Preset.image n).best by omega,
    show n - (encodeAll rd Preset.image n).spDec = (encodeAll rd Preset.image n).peak by omega]

end Sys2Proof.Machine

/-! # 45_host_framing.md: the codecs give back what they are given -/

namespace Sys2Proof.Machine

/-! ## Byte layouts -/

@[simp] theorem leBytes_length : ∀ k v : Nat, (leBytes k v).length = k
  | 0, _ => rfl
  | k + 1, v => congrArg (· + 1) (leBytes_length k (v / 256))

/-- A number of `k` bytes reads back (20_memory.md R72). -/
theorem leNat_leBytes : ∀ {k v : Nat}, v < 256 ^ k → leNat (leBytes k v) = v
  | 0, v, h => by
    rw [leBytes, leNat]
    omega
  | k + 1, v, h => by
    have hrest : v / 256 < 256 ^ k := Nat.div_lt_of_lt_mul (by rwa [pow_succ'] at h)
    rw [leBytes, leNat, leNat_leBytes hrest, BitVec.toNat_ofNat]
    exact Nat.mod_add_div v 256

/-- The bytes that EncodeAll reads of a list are the list's. -/
theorem inputPrefix_byteAt {d : List Byte} {c : Nat} (h : c ≤ d.length) : inputPrefix (byteAt d) c = d.take c := by
  apply List.ext_getElem
  · simpa using h
  · intro a _ ha
    have hin : a < d.length := by
      rw [List.length_take] at ha
      omega
    simp [inputPrefix, byteAt, hin]

/-! ## The block codec (R241 to R243) -/

/-- Settles O57: the header gives back N, and the stream decodes to its N input bytes. -/
theorem blockCodecRoundTrips : Obligations.BlockCodecRoundTrips := by
  intro h b hb
  have hlen : leNat (leBytes 3 b.length) = b.length := leNat_leBytes (by unfold maxInput at hb; omega)
  have hdecode : blockDecode (encodeBytes Preset.block b).out b.length = .ok b := by
    have hall := decodeStream_encodeAll (byteAt b) .block .strict b.length
    rwa [inputPrefix_byteAt (le_refl _), List.take_length] at hall
  refine ⟨_, if_neg (not_lt.2 hb), ?_⟩
  generalize (encodeBytes Preset.block b).out = S at hdecode ⊢
  have htake : ((blockHeader h b.length ++ S).drop 1).take 3 = leBytes 3 b.length := List.take_left' (leBytes_length ..)
  have hdrop : (blockHeader h b.length ++ S).drop 4 = S := List.drop_left' (by simp [blockHeader])
  have hlong : ¬ (blockHeader h b.length ++ S).length < 4 := by simp [blockHeader]
  have htag : (blockHeader h b.length ++ S).getD 0 0 = h.blockTag := rfl
  rw [decompressBlock, if_neg hlong, htag, if_neg (not_not.2 rfl), htake, hdrop, hlen, hdecode]
  rfl

/-! ## The image container's footer (R246) -/

/-- A container: its bytes before the footer, then compressedLength, headerLength and extraSize. -/
def withFooter (y : List Byte) (cl hl extra : Nat) : List Byte :=
  y ++ (leBytes 3 cl ++ leBytes 1 hl ++ leBytes 4 extra)

section
variable {y : List Byte} {cl hl extra : Nat}

theorem withFooter_length : (withFooter y cl hl extra).length = y.length + 8 := by simp [withFooter]

theorem footerCompressed_withFooter (h : cl < 2 ^ 24) : footerCompressed (withFooter y cl hl extra) = cl := by
  rw [footerCompressed, withFooter_length, Nat.add_sub_cancel, withFooter, List.drop_left, List.append_assoc,
    List.take_left' (leBytes_length ..), leNat_leBytes (by omega)]

theorem footerHeader_withFooter (h : hl < 256) : footerHeader (withFooter y cl hl extra) = hl := by
  have hdrop : (withFooter y cl hl extra).drop (y.length + 3) = leBytes 1 hl ++ leBytes 4 extra := by
    rw [withFooter, List.append_assoc, ← List.append_assoc]
    exact List.drop_left' (by simp)
  rw [footerHeader, withFooter_length, show y.length + 8 - 5 = y.length + 3 by omega, hdrop,
    List.take_left' (leBytes_length ..), leNat_leBytes (by omega)]

theorem extraBytes_withFooter :
    (withFooter y cl hl extra).drop ((withFooter y cl hl extra).length - 4) = leBytes 4 extra := by
  rw [withFooter_length, show y.length + 8 - 4 = y.length + 4 by omega, withFooter, ← List.append_assoc]
  exact List.drop_left' (by simp)

theorem footerExtra_withFooter (w : Word) : footerExtra (withFooter y cl hl w.toNat) = w.toInt := by
  rw [footerExtra, extraBytes_withFooter, leNat_leBytes w.isLt, BitVec.ofNat_toNat, BitVec.setWidth_eq]

/-- Step 1 finds the footer at once (R247). -/
theorem appendedLength_withFooter (hcl : cl < 2 ^ 24) (hin : cl ≤ y.length + 8) (hhl : 8 ≤ hl) (hhl' : hl < 256) :
    appendedLength (withFooter y cl hl extra) = some 0 := by
  have haccept : footerAccepted (withFooter y cl hl extra) = true := by
    simp [footerAccepted, footerCompressed_withFooter hcl, footerHeader_withFooter hhl', withFooter_length, hin, hhl]
  rw [appendedLength, List.find?_cons_of_pos]
  simpa using haccept

/-- extraSize 0 alone stores four zero bytes (90_conflicts.md C6). -/
theorem leBytes_extra_ne_zero {w : Word} (h : w ≠ 0) : leBytes 4 w.toNat ≠ [0, 0, 0, 0] := by
  intro hz
  have hval := leNat_leBytes (k := 4) w.isLt
  rw [hz] at hval
  exact h (BitVec.eq_of_toNat_eq hval.symm)

end

/-! ## The image codec (R244 to R247) -/

/-- The trim of a remainder: how many bytes pass through, and what the stream decodes to (R245). -/
theorem trimImage_decodes (clamp : ClampMode) (rem : List Byte) :
    ∃ k ≤ rem.length, (trimImage rem).passthrough = rem.take k ∧
      imageDecode clamp (trimImage rem).stream (rem.length - k) = .ok (rem.drop k).reverse := by
  have hcounted := encodeAll_counted (byteAt rem.reverse) Preset.image rem.reverse.length
  have hcur := encodeAll_cur (byteAt rem.reverse) Preset.image rem.reverse.length
  have hdec := hcounted.dec
  have hdecode := trimmedImageStreamDecodesToThePeak (byteAt rem.reverse) clamp rem.reverse.length
  rw [List.length_reverse] at hdec hcur hdecode
  refine ⟨(encodeAll (byteAt rem.reverse) Preset.image rem.length).spDec, by omega, ?_, ?_⟩
  · simp [trimImage, encodeBytes]
  · have htake := inputPrefix_byteAt (d := rem.reverse)
      (c := rem.length - (encodeAll (byteAt rem.reverse) Preset.image rem.length).spDec) (by simp)
    rw [inputPrefix] at htake
    dsimp only at hdecode
    rw [htake, List.take_reverse, Nat.sub_sub_self (by omega)] at hdecode
    simpa [trimImage, encodeBytes, imageDecode] using hdecode

/-- The padding rounds up to a multiple of 4 (R244 step 3). -/
theorem padCount_le (basis : PadBasis) (t : Trimmed) : padCount basis t ≤ 3 := by
  unfold padCount roundUp4
  omega

/-- Steps 4 to 6 on a container (R247): the stream between what passes through and the padding is decoded to the
length that extraSize gives. -/
theorem decodeContainer_withFooter {clamp : ClampMode} {pass S out : List Byte} {pad n : Nat} {w : Word}
    (hcl : S.length + (pad + 8) < 2 ^ 24) (hpad : pad ≤ 3) (hw : w.toInt = (n : Int) - S.length - (pad + 8))
    (hdec : imageDecode clamp S n = .ok out) :
    decodeContainer clamp (withFooter (pass ++ S.reverse ++ List.replicate pad 0xFF) (S.length + (pad + 8)) (pad + 8)
      w.toNat) = .ok (pass ++ out.reverse) := by
  generalize hx : withFooter (pass ++ S.reverse ++ List.replicate pad 0xFF) (S.length + (pad + 8)) (pad + 8) w.toNat = x
  have hlen : x.length = pass.length + S.length + pad + 8 := by
    rw [← hx, withFooter_length]
    simp only [List.length_append, List.length_reverse, List.length_replicate]
  have hcompressed : footerCompressed x = S.length + (pad + 8) := by rw [← hx, footerCompressed_withFooter hcl]
  have hheader : footerHeader x = pad + 8 := by rw [← hx, footerHeader_withFooter (by omega)]
  have hextra : footerExtra x = w.toInt := by rw [← hx, footerExtra_withFooter]
  have hpadding : paddingBytes x = List.replicate pad 0xFF := by
    have hdrop : x.drop (pass.length + S.length) = List.replicate pad 0xFF ++
        (leBytes 3 (S.length + (pad + 8)) ++ leBytes 1 (pad + 8) ++ leBytes 4 w.toNat) := by
      rw [← hx, withFooter, List.append_assoc (pass ++ S.reverse)]
      exact List.drop_left' (by simp)
    rw [paddingBytes, hheader, hlen,
      show pass.length + S.length + pad + 8 - (pad + 8) = pass.length + S.length by omega,
      hdrop, Nat.add_sub_cancel, List.take_left' List.length_replicate]
  have htake : x.take pass.length = pass := by
    rw [← hx, withFooter, List.append_assoc, List.append_assoc, List.take_left]
  have hstream : (x.drop pass.length).take S.length = S.reverse := by
    rw [← hx, withFooter, List.append_assoc, List.append_assoc, List.drop_left, List.append_assoc,
      List.take_left' List.length_reverse]
  have hpass : x.length - min (S.length + (pad + 8)) x.length = pass.length := by omega
  have hn : ((x.length : Int) + w.toInt - pass.length).toNat = n := by
    rw [hlen, hw]
    omega
  have hshort : ¬ x.length < pad + 8 := by omega
  have hvalid : ¬ (x.length < S.length + (pad + 8) ∨ pad + 8 < 8 ∨
      (List.replicate pad (0xFF : Byte)).any (· != 0xFF) = true) := by
    have hany : (List.replicate pad (0xFF : Byte)).any (· != 0xFF) = false := by simp
    simp only [hany, Bool.false_eq_true, or_false]
    omega
  simp only [decodeContainer, hheader, hcompressed, hpadding, hextra, if_neg hshort, if_neg hvalid, hpass, hn,
    Nat.add_sub_cancel, hstream, htake, List.reverse_reverse, hdec]

/-- extraSize as stored is read back signed (R246). -/
theorem extraSizeWord_toInt {basis : PadBasis} {t : Trimmed} {n : Nat} (hn : n < 2 ^ 24)
    (hbody : t.body.length < 2 ^ 25) :
    (extraSizeWord basis t n).toInt = (n : Int) - t.body.length - headerLength basis t := by
  have hpad := padCount_le basis t
  rw [extraSizeWord, BitVec.toInt_ofInt]
  unfold headerLength
  rw [Int.bmod_def]
  split_ifs <;> omega

/-- A compressed container, after the bytes `pre`, as its footer names its parts. -/
theorem imageContainer_eq (pre : List Byte) (basis : PadBasis) (t : Trimmed) (n : Nat) :
    pre ++ imageContainer basis t n =
      withFooter (pre ++ t.passthrough ++ t.stream.reverse ++ List.replicate (padCount basis t) 0xFF)
        (t.stream.length + headerLength basis t) (headerLength basis t) (extraSizeWord basis t n).toNat := by
  simp [imageContainer, imageFooter, Trimmed.body, withFooter]

/-- A container with extraSize other than 0 is decoded, after what passes through (R247). -/
theorem decompressImage_of_container {h : HostParams} {pre rem : List Byte} (hrem : rem.length < 2 ^ 24)
    (hextra : extraSizeWord h.padBasis (trimImage rem) rem.length ≠ 0)
    (hcl : (trimImage rem).stream.length + headerLength h.padBasis (trimImage rem) < 2 ^ 24) :
    decompressImage h (pre ++ imageContainer h.padBasis (trimImage rem) rem.length) = .ok (pre ++ rem) := by
  obtain ⟨p, hp, hpass, hdec⟩ := trimImage_decodes h.imageClamp rem
  have hpad := padCount_le h.padBasis (trimImage rem)
  have hbody : (trimImage rem).body.length = p + (trimImage rem).stream.length := by
    rw [Trimmed.body, hpass, List.length_append, List.length_take, List.length_reverse]
    omega
  have hword := extraSizeWord_toInt (basis := h.padBasis) hrem (t := trimImage rem) (by omega)
  rw [imageContainer_eq, hpass]
  unfold headerLength at *
  generalize extraSizeWord h.padBasis (trimImage rem) rem.length = w at *
  generalize padCount h.padBasis (trimImage rem) = pad at *
  generalize (trimImage rem).stream = S at *
  have hin : S.length + (pad + 8) ≤ (pre ++ rem.take p ++ S.reverse ++ List.replicate pad 0xFF).length + 8 := by
    simp only [List.length_append, List.length_reverse, List.length_replicate]
    omega
  have hcontainer := decodeContainer_withFooter (pass := pre ++ rem.take p) (S := S) (pad := pad) (w := w) hcl hpad
    (by omega) hdec
  have hlast := leBytes_extra_ne_zero hextra
  rw [← extraBytes_withFooter (y := pre ++ rem.take p ++ S.reverse ++ List.replicate pad 0xFF)
    (cl := S.length + (pad + 8)) (hl := pad + 8)] at hlast
  have happended := appendedLength_withFooter (extra := w.toNat) hcl hin (Nat.le_add_left 8 pad) (by omega)
  generalize withFooter _ _ _ _ = x at hcontainer hlast happended ⊢
  rw [List.reverse_reverse, List.append_assoc, List.take_append_drop] at hcontainer
  simp only [decompressImage, happended, Nat.sub_zero, List.take_length, List.drop_length, List.append_nil,
    if_neg hlast, hcontainer]

/-- Settles O58: the container's footer is found at once, its stream decodes to the input before the peak, and the
rest of the data passes through. -/
theorem imageCodecRoundTripsUnlessRawOrAmbiguous : Obligations.ImageCodecRoundTripsUnlessRawOrAmbiguous := by
  intro h data isMain
  dsimp only
  intro hk hrem hfallback hextra hcl
  refine ⟨_, (if_neg (not_lt.2 hk)).trans (if_neg (not_lt.2 (Nat.le_pred_of_lt hrem))), ?_⟩
  rw [compressRemainder, mainPrefix, hfallback, if_neg Bool.false_ne_true,
    decompressImage_of_container hrem hextra hcl, List.take_append_drop]

/-! ## The size of an image's answer (R244) -/

theorem roundUp4_bounds (n : Nat) : n ≤ roundUp4 n ∧ roundUp4 n ≤ n + 3 := by
  unfold roundUp4
  omega

/-- A remainder grows by at most its rounding and 8 bytes, raw or compressed (R244 step 5). -/
theorem compressRemainder_length_le (h : HostParams) (rem : List Byte) :
    (compressRemainder h rem).length ≤ roundUp4 rem.length + 8 := by
  unfold compressRemainder
  dsimp only
  split_ifs with hfallback
  · obtain ⟨hle, -⟩ := roundUp4_bounds rem.length
    simp only [rawContainer, List.length_append, List.length_replicate, List.length_cons, List.length_nil]
    omega
  · have hlt : (trimImage rem).body.length + headerLength h.padBasis (trimImage rem) < roundUp4 rem.length + 8 := by
      simpa [takesFallback] using hfallback
    unfold headerLength at hlt
    simp only [imageContainer, imageFooter, List.length_append, List.length_replicate, leBytes_length]
    omega

/-- Inversion of an image's answer: what passes through, then the remainder's container. -/
theorem compressImage_ok {h : HostParams} {data out : List Byte} {isMain : Bool}
    (hout : compressImage h data isMain = .ok out) :
    (if isMain then 0x4000 else 0) ≤ data.length ∧
      out = data.take (if isMain then 0x4000 else 0) ++
        compressRemainder h (data.drop (if isMain then 0x4000 else 0)) := by
  simp only [compressImage, mainPrefix] at hout
  split_ifs at hout with hmain hk hmax hk hmax
  all_goals cases hout
  · simp only [if_pos hmain]
    exact ⟨not_lt.1 hk, trivial⟩
  · simp only [if_neg hmain]
    exact ⟨not_lt.1 hk, trivial⟩

/-- Settles O59: the passed-through bytes are a multiple of 4, and the remainder's container is bounded. -/
theorem imageCodecKeepsThePrefixAndTheBound : Obligations.ImageCodecKeepsThePrefixAndTheBound := by
  intro h data out
  refine ⟨fun hout => ?_, fun isMain hout => ?_⟩
  · obtain ⟨hk, rfl⟩ := compressImage_ok hout
    exact List.take_left' (List.length_take_of_le hk)
  · obtain ⟨hk, rfl⟩ := compressImage_ok hout
    have hfour : (if isMain then 0x4000 else 0) % 4 = 0 := by split_ifs <;> rfl
    generalize (if isMain then 0x4000 else 0) = k at hk hfour ⊢
    have hrem := compressRemainder_length_le h (data.drop k)
    rw [List.length_append, List.length_take_of_le hk]
    rw [List.length_drop, roundUp4] at hrem
    omega

end Sys2Proof.Machine
